-- ==== Sys2Proof/Word.lean ====
section
/-! DEFINITION. The bit vectors of the block: everything it moves is an unsigned word (00_scope.md R7, R9). -/

namespace Sys2Proof

/-- One byte, the data width of an access (R7). -/
abbrev Byte := BitVec 8

/-- A bus address, domain 0..65535 (R7, 20_memory.md R50). -/
abbrev Addr := BitVec 16

/-- A 16-bit data word of the word helpers (R7). -/
abbrev Word := BitVec 16

/-- A command word in format CMD40, bit 39 the most significant (30_encoding.md R91). -/
abbrev CmdWord := BitVec 40

end Sys2Proof
end

