-- ==== Sys2Proof/Names.lean ====
section
/-! DEFINITION. The names of the backing stores (10_state.md R27 to R31) and of the request ports
(30_encoding.md R103). -/

namespace Sys2Proof

/-- The five fixed-size backing stores (10_state.md R27 to R31). -/
inductive Store where
  /-- boot overlay (R27) -/
  | ovl
  /-- work RAM (R28) -/
  | wram
  /-- echo RAM, a store of its own (R29) -/
  | echo
  /-- reserved scratch (R30) -/
  | scr
  /-- zero-page RAM (R31) -/
  | zp
  deriving DecidableEq, Repr, Inhabited

/-- The three request ports (30_encoding.md R103). -/
inductive Port where
  /-- the CPU collaborator's port -/
  | bus
  /-- the interrupt sources' port -/
  | irq
  /-- the system wiring's port -/
  | host
  deriving DecidableEq, Repr, Inhabited

end Sys2Proof
end

