-- ==== Sys2Proof/Config.lean ====
section
/-! DEFINITION. The parameters of 00_scope.md R8 that the spec
leaves open, and the two types of
identities built on them. No opaque constant has a body: no proof can see its value, so a claim holds
whatever it is. -/

namespace Sys2Proof

/-- How many identities of capabilities there are beside the first (log entry 7). -/
opaque Config.moreDevices : Nat

/-- Identity of a peripheral capability: R8's parameter `DeviceId`, a finite type whose size is left
open (log entry 7). -/
abbrev DeviceId := Fin (Config.moreDevices + 1)

/-- Which numbers beside the first stand for a cartridge handle (log entry 7). -/
opaque Config.isCart (n : Nat) : Bool

/-- Identity of a cartridge handle: R8's parameter `CartId`, a type of which is left open how many
handles it has and whether it is finite (log entry 7). -/
abbrev CartId := { n : Nat // n = 0 ∨ Config.isCart n = true }

/-- `PowerOnFill` for the stores: the byte store `st` holds at index `i` from construction until a
write reaches it, an independent draw per byte (R8, 10_state.md R38, 92 D5; log entry 4). -/
opaque Config.powerOnFill (st : Store) (i : Nat) : Byte

/-- `PowerOnFill` for `S.IE` (10_state.md R24, R38; log entry 5). -/
opaque Config.powerOnIntEnable : Byte

/-- `PowerOnFill` for `S.DMG` (10_state.md R25, R38; log entry 5). -/
opaque Config.powerOnDmg : Byte

/-- `PeriphRead`: the byte device `d` answers to a read at `a`; `n` counts the draws, so that two
reads need not agree (R8, 92 D18; log entry 6). -/
opaque Config.periphByte (d : DeviceId) (a : Addr) (n : Nat) : Byte

/-- `CartRead`: the byte cartridge `c` answers to a read at `a` (R8, 92 D18; log entry 6). -/
opaque Config.cartByte (c : CartId) (a : Addr) (n : Nat) : Byte

/-- `DevName`: the capability's `name()` (R8, 92 D20; log entry 8). -/
opaque Config.devName (d : DeviceId) : String

/-- `CartDesc`: the cartridge's human-readable description (R8, 92 D21; log entry 8). -/
opaque Config.cartDesc (c : CartId) : String

/-- The merge of the three ports, left free (30_encoding.md R103, 92 D1): the port named for turn `n`
(log entry 2). -/
opaque Config.arbiter (n : Nat) : Port

end Sys2Proof
end

