-- ==== Sys2Proof/Interface.lean ====
section
/-! DEFINITION. Router command interface 1: what arrives on its ports and what leaves the block
(30_encoding.md R90 to R93, R103; 60_exceptions.md R161). -/

namespace Sys2Proof

/-- The out-of-band payload of a command (30_encoding.md R92). -/
inductive Payload where
  /-- no payload came with the word -/
  | absent
  /-- the capability to bind (CONNECT) -/
  | device (d : DeviceId)
  /-- the overlay image, of any length (LOADOVL) -/
  | bytes (data : List Byte)
  /-- the cartridge handle (LOADCART) -/
  | cart (c : CartId)
  deriving DecidableEq, Repr

/-- A command as it arrives: its word and its payload (R90). -/
structure Command where
  word : CmdWord
  payload : Payload
  deriving DecidableEq, Repr

/-- A response, and the port it goes back to (R93). -/
structure Response where
  port : Port
  rdata : Word
  status : Byte
  deriving DecidableEq, Repr

/-- A diagnostic event with the values it records (60_exceptions.md R161). -/
inductive Diag where
  | unmappedRead (a : Addr)
  | unmappedWrite (a : Addr) (v : Byte)
  | unknownIrqKind (kind : BitVec 4)
  | cartLoaded (description : String)
  | dumpEntry (a : Addr) (name : String)
  deriving DecidableEq, Repr

/-- A call the router makes to a collaborator; it passes the full bus address (20_memory.md R80). -/
inductive Call where
  | periphRead (d : DeviceId) (a : Addr)
  | periphWrite (d : DeviceId) (a : Addr) (v : Byte)
  | cartRead (c : CartId) (a : Addr)
  | cartWrite (c : CartId) (a : Addr) (v : Byte)
  deriving DecidableEq, Repr

/-- The second half of a word access whose first half is done (20_memory.md R72): `a` is the address
of that second byte. -/
inductive Half where
  /-- RW: the low byte already read -/
  | readHigh (lo : Byte) (a : Addr)
  /-- WW: the high byte still to be written -/
  | writeHigh (hi : Byte) (a : Addr)
  deriving DecidableEq, Repr

/-- One request port: the commands waiting there, oldest first, and a word access in progress. -/
structure PortState where
  queue : List Command
  half : Option Half
  deriving DecidableEq, Repr

/-- What a byte access resolves to (20_memory.md R54): exactly one of these for every address and
direction. -/
inductive Target where
  /-- a bound peripheral (R52) -/
  | periph (d : DeviceId)
  /-- the bound cartridge (R56, R57) -/
  | cart (c : CartId)
  /-- byte `i` of one backing store -/
  | cell (st : Store) (i : Nat)
  /-- a write to work-RAM byte `i` that also reaches echo byte `i` (R59) -/
  | mirrored (i : Nat)
  /-- `S.IF` at 0xFF0F -/
  | intFlag
  /-- `S.IE` at 0xFFFF -/
  | intEnable
  /-- `S.DMG` at 0xFF50 -/
  | dmg
  /-- no row and no binding claims it (R64) -/
  | unmapped
  deriving DecidableEq, Repr

end Sys2Proof
end

