-- ==== Sys2Proof/Syntax.lean ====
section
/-! DEFINITION. The commands of router command interface 1: one constructor per row of
spec/opcode_table.json (30_encoding.md R94), with the operands of R96. -/

namespace Sys2Proof

/-- A command with its operands. -/
inductive Instr where
  /-- RB, `readByte(addr)` (40_bus_access.md R111) -/
  | rb (a : Addr)
  /-- WB, `writeByte(addr, value)` (R113) -/
  | wb (a : Addr) (v : Byte)
  /-- RW, `readWord(addr)` (R115) -/
  | rw (a : Addr)
  /-- WW, `writeWord(addr, value)` (R117) -/
  | ww (a : Addr) (w : Word)
  /-- CONNECT, `connectPeripheral(capability, startAddr, endAddr)` (41_control.md R130) -/
  | connect (d : DeviceId) (start stop : Addr)
  /-- LOADOVL, `loadBootOverlay(data)` (R133) -/
  | loadovl (data : List Byte)
  /-- LOADCART, `loadCartridge(handle)` (R136) -/
  | loadcart (c : CartId)
  /-- SETBOOT, `setBootMode(enabled)` (R137) -/
  | setboot (enabled : Bool)
  /-- IRQ, `requestInterrupt(kind)` (42_interrupt_request.md R150) -/
  | irq (kind : BitVec 4)
  /-- RESET, `reset()` (R140) -/
  | reset
  /-- DUMP, the diagnostic dump (R143) -/
  | dump
  deriving DecidableEq, Repr

end Sys2Proof
end

