-- ==== Sys2Proof/WellFormed.lean ====
section
/-! DEFINITION. Which commands are legal, read from the opcode table's mask and match columns and the
payload rule (30_encoding.md R94, R95, R97). Decode.lean is written from the fields instead, and a
statement says that the two agree. An `Instr` needs no check of its own: each operand's type is
exactly its range (R96). -/

namespace Sys2Proof

/-- Which payload an opcode carries (R92). -/
inductive PayloadKind where
  | none
  | deviceId
  | byteSequence
  | cartId
  deriving DecidableEq, Repr

/-- One row of spec/opcode_table.json. -/
structure OpcodeRow where
  mnemonic : String
  mask : CmdWord
  pattern : CmdWord
  payload : PayloadKind
  deriving DecidableEq, Repr

/-- The opcode table, row for row (R94, R95). -/
def opcodeTable : List OpcodeRow :=
  [ ⟨"RB",       0xFF0000FFFF#40, 0x0000000000#40, .none⟩,
    ⟨"WB",       0xFF0000FF00#40, 0x1000000000#40, .none⟩,
    ⟨"RW",       0xFF0000FFFF#40, 0x2000000000#40, .none⟩,
    ⟨"WW",       0xFF00000000#40, 0x3000000000#40, .none⟩,
    ⟨"CONNECT",  0xFF00000000#40, 0x4000000000#40, .deviceId⟩,
    ⟨"LOADOVL",  0xFFFFFFFFFF#40, 0x5000000000#40, .byteSequence⟩,
    ⟨"LOADCART", 0xFFFFFFFFFF#40, 0x6000000000#40, .cartId⟩,
    ⟨"SETBOOT",  0xFEFFFFFFFF#40, 0x7000000000#40, .none⟩,
    ⟨"IRQ",      0xF0FFFFFFFF#40, 0x8000000000#40, .none⟩,
    ⟨"RESET",    0xFFFFFFFFFF#40, 0x9000000000#40, .none⟩,
    ⟨"DUMP",     0xFFFFFFFFFF#40, 0xA000000000#40, .none⟩ ]

/-- The payload is of the kind the row carries: present where one is due, and absent elsewhere
("no other opcode carries one", R92). -/
def PayloadKind.fits : PayloadKind → Payload → Bool
  | .none, .absent => true
  | .deviceId, .device _ => true
  | .byteSequence, .bytes _ => true
  | .cartId, .cart _ => true
  | _, _ => false

/-- The row's opcode and must-be-zero bits are those of the word (R95). -/
def OpcodeRow.matchesWord (r : OpcodeRow) (w : CmdWord) : Bool :=
  (w &&& r.mask) == r.pattern

/-- A legal word: some row matches it (R97). -/
def CmdWord.wellFormed (w : CmdWord) : Bool :=
  opcodeTable.any (fun r => r.matchesWord w)

/-- A legal command: some row matches its word and the payload is of that row's kind (R97). -/
def Command.wellFormed (c : Command) : Bool :=
  opcodeTable.any (fun r => r.matchesWord c.word && r.payload.fits c.payload)

end Sys2Proof
end

