-- ==== Sys2Proof/Decode.lean ====
section
/-! DEFINITION. Decoding command words (30_encoding.md R91, R94 to R97, R102) and encoding them again. -/

namespace Sys2Proof

/-- Why a command spells nothing (R97). -/
inductive Reject where
  /-- `op` is 0xB..0xF -/
  | noSuchOpcode
  /-- a must-be-zero bit is set (R95) -/
  | mustBeZero
  /-- the payload is missing or of the wrong kind (R92) -/
  | badPayload
  deriving DecidableEq, Repr

/-- Field `op`, bits 39:36 (R91). -/
def CmdWord.op (w : CmdWord) : BitVec 4 := w.extractLsb' 36 4

/-- Field `sub`, bits 35:32 (R91). -/
def CmdWord.sub (w : CmdWord) : BitVec 4 := w.extractLsb' 32 4

/-- Field `a`, bits 31:16 (R91). -/
def CmdWord.a (w : CmdWord) : BitVec 16 := w.extractLsb' 16 16

/-- Field `b`, bits 15:0 (R91). -/
def CmdWord.b (w : CmdWord) : BitVec 16 := w.extractLsb' 0 16

/-- The word with the given fields, by R91's formula. -/
def CmdWord.pack (op sub : BitVec 4) (a b : BitVec 16) : CmdWord :=
  (op.zeroExtend 40 <<< 36) ||| (sub.zeroExtend 40 <<< 32) ||| (a.zeroExtend 40 <<< 16) ||| b.zeroExtend 40

/-- Finish decoding once the opcode is known: the must-be-zero bits, then the payload (R102).
DESIGN CHOICE: where both are wrong, the bits are named (log entry 9). -/
def decodeChecked (mustBeZero : Bool) (operands : Option Instr) : Except Reject Instr :=
  if mustBeZero then
    match operands with
    | some i => .ok i
    | none => .error .badPayload
  else .error .mustBeZero

/-- The payload CONNECT carries (R92). -/
def Payload.device? : Payload → Option DeviceId
  | .device d => some d
  | _ => none

/-- The payload LOADOVL carries (R92). -/
def Payload.bytes? : Payload → Option (List Byte)
  | .bytes data => some data
  | _ => none

/-- The payload LOADCART carries (R92). -/
def Payload.cart? : Payload → Option CartId
  | .cart c => some c
  | _ => none

/-- `i` for a command that carries no payload (R92: "no other opcode carries one"). -/
def Payload.ifAbsent (p : Payload) (i : Instr) : Option Instr :=
  match p with
  | .absent => some i
  | _ => none

/-- Decoding, total: by `op`, then the must-be-zero bits, then the payload (R94, R95, R96, R102). -/
def decode (c : Command) : Except Reject Instr :=
  let w := c.word
  let p := c.payload
  match (CmdWord.op w).toNat with
  | 0 => decodeChecked (w.sub == 0 && w.b == 0) (p.ifAbsent (.rb w.a))
  | 1 => decodeChecked (w.sub == 0 && w.b.extractLsb' 8 8 == 0) (p.ifAbsent (.wb w.a (w.b.extractLsb' 0 8)))
  | 2 => decodeChecked (w.sub == 0 && w.b == 0) (p.ifAbsent (.rw w.a))
  | 3 => decodeChecked (w.sub == 0) (p.ifAbsent (.ww w.a w.b))
  | 4 => decodeChecked (w.sub == 0) (p.device?.map (fun d => .connect d w.a w.b))
  | 5 => decodeChecked (w.sub == 0 && w.a == 0 && w.b == 0) (p.bytes?.map .loadovl)
  | 6 => decodeChecked (w.sub == 0 && w.a == 0 && w.b == 0) (p.cart?.map .loadcart)
  | 7 => decodeChecked (w.sub.extractLsb' 1 3 == 0 && w.a == 0 && w.b == 0) (p.ifAbsent (.setboot (w.sub.getLsbD 0)))
  | 8 => decodeChecked (w.a == 0 && w.b == 0) (p.ifAbsent (.irq w.sub))
  | 9 => decodeChecked (w.sub == 0 && w.a == 0 && w.b == 0) (p.ifAbsent .reset)
  | 10 => decodeChecked (w.sub == 0 && w.a == 0 && w.b == 0) (p.ifAbsent .dump)
  | _ => .error .noSuchOpcode

/-- Encoding (R91, R92, R94, R96): fields the opcode does not use are zero (R95). -/
def encode : Instr → Command
  | .rb a => ⟨CmdWord.pack 0x0 0 a 0, .absent⟩
  | .wb a v => ⟨CmdWord.pack 0x1 0 a (v.zeroExtend 16), .absent⟩
  | .rw a => ⟨CmdWord.pack 0x2 0 a 0, .absent⟩
  | .ww a w => ⟨CmdWord.pack 0x3 0 a w, .absent⟩
  | .connect d start stop => ⟨CmdWord.pack 0x4 0 start stop, .device d⟩
  | .loadovl data => ⟨CmdWord.pack 0x5 0 0 0, .bytes data⟩
  | .loadcart c => ⟨CmdWord.pack 0x6 0 0 0, .cart c⟩
  | .setboot enabled => ⟨CmdWord.pack 0x7 (BitVec.zeroExtend 4 (BitVec.ofBool enabled)) 0 0, .absent⟩
  | .irq kind => ⟨CmdWord.pack 0x8 kind 0 0, .absent⟩
  | .reset => ⟨CmdWord.pack 0x9 0 0 0, .absent⟩
  | .dump => ⟨CmdWord.pack 0xA 0 0 0, .absent⟩

/-- The device identity numbered zero. -/
def firstDevice : DeviceId := ⟨0, Nat.succ_pos _⟩

/-- The cartridge identity numbered zero. -/
def firstCart : CartId := ⟨0, .inl rfl⟩

/-- The payload that stands beside a word given alone: the payload of zeros of the kind its opcode
carries (device 0, the empty image, cartridge 0). DESIGN CHOICE: the opcode table gives payloads no
bits, and whatever lies above the table's bits is zero (log entry 1). -/
def zeroPayload (w : CmdWord) : Payload :=
  match (CmdWord.op w).toNat with
  | 4 => .device firstDevice
  | 5 => .bytes []
  | 6 => .cart firstCart
  | _ => .absent

/-- The command a table word of `nbits` bits stands for. -/
def tableCommand (nbits w : Nat) : Command :=
  let word : CmdWord := BitVec.ofNat 40 (w % 2 ^ nbits)
  ⟨word, zeroPayload word⟩

/-- What the decoder reads from a word of the opcode table. -/
def decodeTableWord (nbits w : Nat) : Option Instr :=
  match decode (tableCommand nbits w) with
  | .ok i => some i
  | .error _ => none

end Sys2Proof
end

