-- ==== Sys2Proof/Machine/State.lean ====
section
/-! DEFINITION. What the router holds (10_state.md R20), how a step can stop, and construction (R38). -/

namespace Sys2Proof.Machine

open Sys2Proof

/-- One backing store: the bytes written since construction, by index, strictly rising. An unlisted
index has no written byte; it reads as its `PowerOnFill` draw (Ops.lean, `State.byteAt`). -/
abbrev Memory := List Host.Cell

/-- The peripheral registry: the bound addresses with their devices, strictly rising (R32). An
unlisted address is unbound. -/
abbrev Registry := List (Nat × DeviceId)

/-- The block raises no exception, takes no trap and never halts (60_exceptions.md R160, R166):
a step has no fault to end in (log entry 23). Nothing raises one; safe. -/
inductive Fault where
  deriving DecidableEq, Repr

/-- Why a step has no meaning (00_scope.md R10). -/
inductive Refusal where
  /-- An instruction whose meaning is not written yet, by its mnemonic. Raised by `exec`'s refused
  arms only, of which there are none. Safe: the model stops. -/
  | notModelled (mnemonic : String)
  /-- A command that spells nothing: an illegal word, or a payload missing or of the wrong kind
  (30_encoding.md R97, 60_exceptions.md R165). Raised by `step` when the decoder rejects the command.
  Safe: the spec gives such a command no meaning. -/
  | illegalCommand (why : Reject)
  deriving DecidableEq, Repr

/-- One router instance with its command interface. -/
structure State where
  /-- `S.BootMode` (R22) -/
  bootMode : Bool
  /-- `S.IF` (R23) -/
  intFlag : Byte
  /-- `S.IE` (R24) -/
  intEnable : Byte
  /-- `S.DMG` (R25) -/
  dmg : Byte
  /-- `S.OVL` (R27) -/
  ovl : Memory
  /-- `S.WRAM` (R28) -/
  wram : Memory
  /-- `S.ECHO` (R29) -/
  echo : Memory
  /-- `S.SCR` (R30) -/
  scr : Memory
  /-- `S.ZP` (R31) -/
  zp : Memory
  /-- `S.Reg` (R32) -/
  reg : Registry
  /-- `S.Cart` (R33) -/
  cart : Option CartId
  /-- the diagnostic log, oldest first (R34) -/
  log : List Diag
  /-- the bus port (30_encoding.md R103) -/
  bus : PortState
  /-- the interrupt port (R103) -/
  irq : PortState
  /-- the host port (R103) -/
  host : PortState
  /-- responses returned, oldest first (30_encoding.md R93; log entry 10) -/
  responses : List Response
  /-- collaborator calls made, oldest first (00_scope.md R10; log entry 10) -/
  calls : List Call
  /-- model's own: which port moves next, while the list lasts (R103; log entry 2) -/
  sched : List Port
  /-- model's own: turns taken since `sched` was empty (log entry 2) -/
  turns : Nat
  /-- model's own: the port whose command is being executed (log entry 12) -/
  issuer : Port
  /-- model's own: the bytes collaborators will answer, in call order (92 D18; log entry 6) -/
  answers : List Byte
  /-- model's own: free answers drawn since `answers` was empty (log entry 6) -/
  draws : Nat
  deriving DecidableEq, Repr

/-- Construction (R38, 70_reset_and_hazards.md R180): boot mode on, IF zero, registry empty, no
cartridge, empty log, every other byte a draw of `PowerOnFill`; no command has arrived. -/
def State.reset : State where
  bootMode := true
  intFlag := 0x00
  intEnable := Config.powerOnIntEnable
  dmg := Config.powerOnDmg
  ovl := []
  wram := []
  echo := []
  scr := []
  zp := []
  reg := []
  cart := none
  log := []
  bus := ⟨[], none⟩
  irq := ⟨[], none⟩
  host := ⟨[], none⟩
  responses := []
  calls := []
  sched := []
  turns := 0
  issuer := .bus
  answers := []
  draws := 0

end Sys2Proof.Machine
end

