-- ==== Sys2Proof/Machine/Flags.lean ====
section
/-! DEFINITION. The flags and single-byte registers and their updates (10_state.md R22 to R26, R35). -/

namespace Sys2Proof.Machine

open Sys2Proof

/-- `S.BootMode <- v` (R22). -/
def State.withBootMode (s : State) (v : Bool) : State := { s with bootMode := v }

/-- `S.IF <- v`, all eight bits (R23). -/
def State.withIntFlag (s : State) (v : Byte) : State := { s with intFlag := v }

/-- `S.IE <- v`, all eight bits (R24). -/
def State.withIntEnable (s : State) (v : Byte) : State := { s with intEnable := v }

/-- `S.DMG <- v`, all eight bits (R25). -/
def State.withDmg (s : State) (v : Byte) : State := { s with dmg := v }

/-- What a vertical-blank request writes to IF: the full byte, not an OR (42_interrupt_request.md
R150, 90 C3). -/
def vblankFlags : Byte := 0x01

/-- The interrupt kind of vertical blank (R151). -/
def vblankKind : BitVec 4 := 0#4

end Sys2Proof.Machine
end

