-- ==== Sys2Proof/Machine/Operands.lean ====
section
/-! DEFINITION. Operand and result assembly: byte halves, little-endian joining, the second address
of a word (20_memory.md R69, R70, R83; 30_encoding.md R93, R96). -/

namespace Sys2Proof.Machine

open Sys2Proof

/-- `zext_16(byte)`, RB's `rdata` (30_encoding.md R93). -/
def zext16 (v : Byte) : Word := v.zeroExtend 16

/-- `w[7:0]`, the half at the word's own address (20_memory.md R69). -/
def loByte (w : Word) : Byte := w.extractLsb' 0 8

/-- `w[15:8]`, the half at the next address (R69). -/
def hiByte (w : Word) : Byte := w.extractLsb' 8 8

/-- `hi ++ lo` (R69). -/
def joinBytes (hi lo : Byte) : Word := hi ++ lo

/-- `(a + 1) mod 2^16`, where a word's high byte is (R70, R83). -/
def nextAddr (a : Addr) : Addr := a + 1#16

end Sys2Proof.Machine
end

