-- ==== Sys2Proof/Machine/Ops.lean ====
section
/-! DEFINITION. The shared operations: backing stores, registry, outputs, collaborator calls, and the
byte read and byte write every bus command is made of (20_memory.md R51 to R67). The block takes no
exception and returns from none (60_exceptions.md R166, R167), so there is no operation for it. -/

namespace Sys2Proof.Machine

open Sys2Proof

/-! ### Backing stores -/

/-- The canonical form: indices strictly rising, so no index is listed twice. A listed index always
differs from what an unlisted one reads as, which is "no byte written yet" (log entry 4). -/
abbrev Memory.wf (m : Memory) : Prop := m.Pairwise (fun x y => x.1 < y.1)

/-- The byte written at index `i`, if any was. -/
def Memory.read : Memory → Nat → Option Byte
  | [], _ => none
  | (k, v) :: rest, i => if k = i then some v else Memory.read rest i

/-- Write byte `v` at index `i`, keeping the canonical form. -/
def Memory.write : Memory → Nat → Byte → Memory
  | [], i, v => [(i, v)]
  | (k, x) :: rest, i, v =>
    if i < k then (i, v) :: (k, x) :: rest
    else if i = k then (i, v) :: rest
    else (k, x) :: Memory.write rest i v

/-- A store's length in bytes, fixed at construction (10_state.md R7, R41). -/
def storeSize : Store → Nat
  | .ovl => 256
  | .wram => 8192
  | .echo => 7680
  | .scr => 52
  | .zp => 128

/-- The contents of a store. -/
def State.store (s : State) : Store → Memory
  | .ovl => s.ovl
  | .wram => s.wram
  | .echo => s.echo
  | .scr => s.scr
  | .zp => s.zp

/-- Replace the contents of a store. -/
def State.withStore (s : State) (st : Store) (m : Memory) : State :=
  match st with
  | .ovl => { s with ovl := m }
  | .wram => { s with wram := m }
  | .echo => { s with echo := m }
  | .scr => { s with scr := m }
  | .zp => { s with zp := m }

/-- Byte `i` of a store: the last byte written there, or its power-on draw (20_memory.md R74,
10_state.md R38). -/
def State.byteAt (s : State) (st : Store) (i : Nat) : Byte :=
  (Memory.read (s.store st) i).getD (Config.powerOnFill st i)

/-- `S.store[i] <- v`. -/
def State.setByte (s : State) (st : Store) (i : Nat) (v : Byte) : State :=
  s.withStore st (Memory.write (s.store st) i v)

/-- `S.store[i] <- data[0]`, `S.store[i+1] <- data[1]`, and so on, ascending. -/
def State.setBytes (s : State) (st : Store) (i : Nat) : List Byte → State
  | [] => s
  | v :: rest => State.setBytes (s.setByte st i v) st (i + 1) rest

/-! ### Registry -/

/-- The canonical form: addresses strictly rising and inside the address space. -/
abbrev Registry.wf (r : Registry) : Prop :=
  r.Pairwise (fun x y => x.1 < y.1) ∧ ∀ e ∈ r, e.1 < 65536

/-- `S.Reg[x]` (10_state.md R32). -/
def Registry.lookup : Registry → Nat → Option DeviceId
  | [], _ => none
  | (k, d) :: rest, x => if k = x then some d else Registry.lookup rest x

/-- `for x in lo .. hi: S.Reg[x] <- some d` at once; empty if `lo > hi` (41_control.md R130). -/
def Registry.bind (r : Registry) (d : DeviceId) (lo hi : Nat) : Registry :=
  if hi < lo then r
  else
    r.filter (fun e => decide (e.1 < lo)) ++
      ((List.range' lo (hi + 1 - lo)).map (fun x => (x, d)) ++
        r.filter (fun e => decide (hi < e.1)))

/-- Replace the registry. -/
def State.withReg (s : State) (r : Registry) : State := { s with reg := r }

/-- `S.Reg[a]`, the first stage of every byte access (20_memory.md R52). -/
def State.binding (s : State) (a : Addr) : Option DeviceId := Registry.lookup s.reg a.toNat

/-- `S.Cart <- c` (10_state.md R33). -/
def State.withCart (s : State) (c : Option CartId) : State := { s with cart := c }

/-! ### Outputs -/

/-- `emit Diag(...)`: append one event to the log (60_exceptions.md R161). -/
def State.emit (s : State) (e : Diag) : State := { s with log := s.log ++ [e] }

/-- Append several events, in order. -/
def State.emitAll (s : State) (es : List Diag) : State := { s with log := s.log ++ es }

/-- The event codes of 60_exceptions.md R161. -/
def diagCode : Diag → Byte
  | .unmappedRead _ => 0x01
  | .unmappedWrite _ _ => 0x02
  | .unknownIrqKind _ => 0x03
  | .cartLoaded _ => 0x04
  | .dumpEntry _ _ => 0x05

/-- `return rdata, status`: the response goes to the port the command came on (30_encoding.md R93). -/
def State.respond (s : State) (rdata : Word) (status : Byte) : State :=
  { s with responses := s.responses ++ [⟨s.issuer, rdata, status⟩] }

/-- Status OK (R93). -/
def statusOk : Byte := 0x00

/-- Status OverlayTooLarge (R93, 60_exceptions.md R163). -/
def statusOverlayTooLarge : Byte := 0x01

/-! ### Collaborators -/

/-- A call goes out on the cartridge port or a peripheral port (30_encoding.md R103). -/
def State.callOut (s : State) (c : Call) : State := { s with calls := s.calls ++ [c] }

/-- The byte a collaborator answers next: the environment's, while `answers` lasts, then a free value
(20_memory.md R80, 92 D18; log entry 6). -/
def State.answer (s : State) (free : Nat → Byte) : Byte :=
  match s.answers with
  | v :: _ => v
  | [] => free s.draws

/-- One answer is used up. -/
def State.useAnswer (s : State) : State :=
  match s.answers with
  | _ :: rest => { s with answers := rest }
  | [] => { s with draws := s.draws + 1 }

/-! ### Address decode -/

/-- A cartridge window: the bound cartridge, or unmapped while none is bound (20_memory.md R66, R67,
92 D10; log entry 18). -/
def cartTarget (cart : Option CartId) : Target :=
  match cart with
  | some c => .cart c
  | none => .unmapped

/-- The resolution table for a byte read of bus address `n` with no binding (20_memory.md R53, R66). -/
def readRows (boot : Bool) (cart : Option CartId) (n : Nat) : Target :=
  if n ≤ 0x00FF ∧ boot = true then .cell .ovl n
  else if n ≤ 0x7FFF then cartTarget cart
  else if 0xA000 ≤ n ∧ n ≤ 0xBFFF then cartTarget cart
  else if 0xC000 ≤ n ∧ n ≤ 0xDFFF then .cell .wram (n - 0xC000)
  else if 0xE000 ≤ n ∧ n ≤ 0xFDFF then .cell .echo (n - 0xE000)
  else if n = 0xFF0F then .intFlag
  else if 0xFF4C ≤ n ∧ n ≤ 0xFF7F ∧ n ≠ 0xFF50 then .cell .scr (n - 0xFF4C)
  else if n = 0xFF50 then .dmg
  else if 0xFF80 ≤ n ∧ n ≤ 0xFFFE then .cell .zp (n - 0xFF80)
  else if n = 0xFFFF then .intEnable
  else .unmapped

/-- The resolution table for a byte write of bus address `n` with no binding (R53, R67). The mirror
row is additive (R59, 90 C4) and the echo window takes no write (R60, 90 C5). -/
def writeRows (cart : Option CartId) (n : Nat) : Target :=
  if n ≤ 0x7FFF then cartTarget cart
  else if 0xA000 ≤ n ∧ n ≤ 0xBFFF then cartTarget cart
  else if 0xC000 ≤ n ∧ n ≤ 0xDFFF then
    if n ≤ 0xDDFF then .mirrored (n - 0xC000) else .cell .wram (n - 0xC000)
  else if n = 0xFF0F then .intFlag
  else if 0xFF4C ≤ n ∧ n ≤ 0xFF7F ∧ n ≠ 0xFF50 then .cell .scr (n - 0xFF4C)
  else if n = 0xFF50 then .dmg
  else if 0xFF80 ≤ n ∧ n ≤ 0xFFFE then .cell .zp (n - 0xFF80)
  else if n = 0xFFFF then .intEnable
  else .unmapped

/-- What a byte read at `a` resolves to: the registry first (R51, R52), then the table. -/
def State.readTarget (s : State) (a : Addr) : Target :=
  match s.binding a with
  | some d => .periph d
  | none => readRows s.bootMode s.cart a.toNat

/-- What a byte write at `a` resolves to (R51, R52). -/
def State.writeTarget (s : State) (a : Addr) : Target :=
  match s.binding a with
  | some d => .periph d
  | none => writeRows s.cart a.toNat

/-- The store bytes a write to a target stores to. -/
def targetCells : Target → List (Store × Nat)
  | .cell st i => [(st, i)]
  | .mirrored i => [(.wram, i), (.echo, i)]
  | _ => []

/-! ### Byte access -/

/-- The byte `ReadByte(a)` returns (20_memory.md R66). -/
def State.readValue (s : State) (a : Addr) : Byte :=
  match s.readTarget a with
  | .periph d => s.answer (Config.periphByte d a)
  | .cart c => s.answer (Config.cartByte c a)
  | .cell st i => s.byteAt st i
  | .mirrored i => s.byteAt .wram i
  | .intFlag => s.intFlag
  | .intEnable => s.intEnable
  | .dmg => s.dmg
  | .unmapped => 0x00

/-- What `ReadByte(a)` does beside returning its byte: a collaborator call or a diagnostic, or nothing
(R66, R71). -/
def State.afterRead (s : State) (a : Addr) : State :=
  match s.readTarget a with
  | .periph d => s.useAnswer.callOut (.periphRead d a)
  | .cart c => s.useAnswer.callOut (.cartRead c a)
  | .unmapped => s.emit (.unmappedRead a)
  | .cell _ _ | .mirrored _ | .intFlag | .intEnable | .dmg => s

/-- `S.store[i] <- v` for each listed byte. -/
def State.setCells (s : State) (v : Byte) : List (Store × Nat) → State
  | [] => s
  | (st, i) :: rest => State.setCells (s.setByte st i v) v rest

/-- `WriteByte(a, v)` (R67). -/
def State.writeByte (s : State) (a : Addr) (v : Byte) : State :=
  match s.writeTarget a with
  | .periph d => s.callOut (.periphWrite d a v)
  | .cart c => s.callOut (.cartWrite c a v)
  | .cell st i => s.setCells v (targetCells (.cell st i))
  | .mirrored i => s.setCells v (targetCells (.mirrored i))
  | .intFlag => s.withIntFlag v
  | .intEnable => s.withIntEnable v
  | .dmg => s.withDmg v
  | .unmapped => s.emit (.unmappedWrite a v)

end Sys2Proof.Machine
end

