-- ==== Sys2Proof/Machine/Ports.lean ====
section
/-! DEFINITION. The request ports: arrival, the free merge into one command order, and word accesses
that another port's command comes between (30_encoding.md R90, R103; 20_memory.md R72, R74). -/

namespace Sys2Proof.Machine

open Sys2Proof

/-- One request port. -/
def State.port (s : State) : Port → PortState
  | .bus => s.bus
  | .irq => s.irq
  | .host => s.host

/-- Replace one request port. -/
def State.withPort (s : State) (p : Port) (ps : PortState) : State :=
  match p with
  | .bus => { s with bus := ps }
  | .irq => { s with irq := ps }
  | .host => { s with host := ps }

/-- A command arrives at port `p`, after those that wait there (R90). The outside world does this. -/
def State.arrive (s : State) (p : Port) (c : Command) : State :=
  s.withPort p ⟨(s.port p).queue ++ [c], (s.port p).half⟩

/-- Port `p` has something to do: a word access to finish, or a command waiting. -/
def State.waiting (s : State) (p : Port) : Bool :=
  (s.port p).half.isSome || !(s.port p).queue.isEmpty

/-- The port the merge names next: the schedule's, then a free value (R103; log entry 2). -/
def State.nextTurn (s : State) : Port :=
  match s.sched with
  | p :: _ => p
  | [] => Config.arbiter s.turns

/-- The ports with something to do. -/
def State.waitingPorts (s : State) : List Port := [Port.bus, Port.irq, Port.host].filter s.waiting

/-- Of the ports that are ready, the one that moves: the one the merge names if it is ready, and otherwise
one that is (log entry 2). None if no port is ready. -/
def State.choose (s : State) (ready : List Port) : Option Port :=
  match ready with
  | [] => none
  | [p] => some p
  | p :: _ => if ready.contains s.nextTurn then some s.nextTurn else some p

/-- The port that moves now. -/
def State.grant (s : State) : Option Port := s.choose s.waitingPorts

/-- Port `p` takes its turn: it becomes the issuer and the merge moves on. -/
def State.takeTurn (s : State) (p : Port) : State :=
  match s.sched with
  | _ :: rest => { s with issuer := p, sched := rest }
  | [] => { s with issuer := p, turns := s.turns + 1 }

/-- The ports ready between the halves of the word access being executed: the issuer, to go on with it,
and every port with something to do. -/
def State.readyPorts (s : State) : List Port :=
  [Port.bus, Port.irq, Port.host].filter (fun p => p == s.issuer || s.waiting p)

/-- Another port's command comes between the halves of the word access being executed: the second half
needs a turn of its own, and the merge gives that turn to another port (20_memory.md R72; log entry 3). -/
def State.torn (s : State) : Bool := s.choose s.readyPorts != some s.issuer

/-- The issuer's word access waits for its second half (R72). -/
def State.holdHalf (s : State) (h : Half) : State :=
  s.withPort s.issuer ⟨(s.port s.issuer).queue, some h⟩

/-- The second transaction of a word access, and the response (40_bus_access.md R115, R117). -/
def State.finishHalf (s : State) (h : Half) : State :=
  match h with
  | .readHigh lo a => (s.afterRead a).respond (joinBytes (s.readValue a) lo) statusOk
  | .writeHigh hi a => (s.writeByte a hi).respond 0x0000 statusOk

/-- After the first transaction of a word access: the second one, on the issuer's next turn, taken at once
or after the other ports' commands that come between (R72). -/
def State.continueWord (s : State) (h : Half) : State :=
  if s.torn then s.holdHalf h else (s.takeTurn s.issuer).finishHalf h

/-- The port on which a command is expected (R103). The router itself checks nothing (R171). -/
def homePort : Instr → Port
  | .rb _ | .wb _ _ | .rw _ | .ww _ _ => .bus
  | .irq _ => .irq
  | .connect _ _ _ | .loadovl _ | .loadcart _ | .setboot _ | .reset | .dump => .host

/-- The port a command word given alone is put on: its own (R103), or the bus port if it is illegal. -/
def commandPort (c : Command) : Port :=
  match decode c with
  | .ok i => homePort i
  | .error _ => .bus

/-- Command `c` stands first at port `p`, with no word access in progress there, and `p` moves next. -/
def State.placeFirst (s : State) (p : Port) (c : Command) : State :=
  { s.withPort p ⟨c :: (s.port p).queue, none⟩ with sched := p :: s.sched }

end Sys2Proof.Machine
end

