-- ==== Sys2Proof/Machine/Bus.lean ====
section
/-! DEFINITION. The bus access commands RB, WB, RW, WW (40_bus_access.md). -/

namespace Sys2Proof.Machine

open Sys2Proof

/-- RB (R111). -/
def execRb (a : Addr) (s : State) : Host.Outcome State Fault Refusal :=
  .next ((s.afterRead a).respond (zext16 (s.readValue a)) statusOk)

/-- WB (R113). -/
def execWb (a : Addr) (v : Byte) (s : State) : Host.Outcome State Fault Refusal :=
  .next ((s.writeByte a v).respond 0x0000 statusOk)

/-- RW (R115): the low byte at `a`, then the high byte at `a + 1`. -/
def execRw (a : Addr) (s : State) : Host.Outcome State Fault Refusal :=
  .next ((s.afterRead a).continueWord (.readHigh (s.readValue a) (nextAddr a)))

/-- WW (R117): the low byte at `a`, then the high byte at `a + 1`. -/
def execWw (a : Addr) (w : Word) (s : State) : Host.Outcome State Fault Refusal :=
  .next ((s.writeByte a (loByte w)).continueWord (.writeHigh (hiByte w) (nextAddr a)))

end Sys2Proof.Machine
end

