-- ==== Sys2Proof/Machine/Control.lean ====
section
/-! DEFINITION. The control commands CONNECT, LOADOVL, LOADCART, SETBOOT, RESET, DUMP (41_control.md). -/

namespace Sys2Proof.Machine

open Sys2Proof

/-- CONNECT (R130). -/
def execConnect (d : DeviceId) (start stop : Addr) (s : State) : Host.Outcome State Fault Refusal :=
  .next ((s.withReg (s.reg.bind d start.toNat stop.toNat)).respond 0x0000 statusOk)

/-- LOADOVL (R133): all or nothing; a short image leaves the tail as it was. -/
def execLoadovl (data : List Byte) (s : State) : Host.Outcome State Fault Refusal :=
  if 256 < data.length then .next (s.respond 0x0000 statusOverlayTooLarge)
  else .next ((s.setBytes .ovl 0 data).respond 0x0000 statusOk)

/-- LOADCART (R136). -/
def execLoadcart (c : CartId) (s : State) : Host.Outcome State Fault Refusal :=
  .next (((s.withCart (some c)).emit (.cartLoaded (Config.cartDesc c))).respond 0x0000 statusOk)

/-- SETBOOT (R137). -/
def execSetboot (enabled : Bool) (s : State) : Host.Outcome State Fault Refusal :=
  .next ((s.withBootMode enabled).respond 0x0000 statusOk)

/-- RESET (R140). -/
def execReset (s : State) : Host.Outcome State Fault Refusal :=
  .next (((s.withBootMode true).withIntFlag 0x00).respond 0x0000 statusOk)

/-- The events of a dump: one per bound address, in the registry's ascending order (R143). -/
def dumpEvents (r : Registry) : List Diag :=
  r.map (fun e => .dumpEntry (BitVec.ofNat 16 e.1) (Config.devName e.2))

/-- DUMP (R143). -/
def execDump (s : State) : Host.Outcome State Fault Refusal :=
  .next ((s.emitAll (dumpEvents s.reg)).respond 0x0000 statusOk)

end Sys2Proof.Machine
end

