-- ==== Sys2Proof/Machine/Interrupt.lean ====
section
/-! DEFINITION. The interrupt request command IRQ (42_interrupt_request.md). -/

namespace Sys2Proof.Machine

open Sys2Proof

/-- The names of the interrupt kinds; only VBLANK is wired (R151). -/
def irqKindName (kind : BitVec 4) : Option String :=
  match kind.toNat with
  | 0 => some "VBLANK"
  | 2 => some "TIMER"
  | 3 => some "SERIAL"
  | 4 => some "INPUT"
  | _ => none

/-- IRQ (R150, R152): vertical blank writes the full byte 0x01 straight to `S.IF`, past the registry;
any other kind is a diagnostic only. -/
def execIrq (kind : BitVec 4) (s : State) : Host.Outcome State Fault Refusal :=
  if kind = vblankKind then .next ((s.withIntFlag vblankFlags).respond 0x0000 statusOk)
  else .next ((s.emit (.unknownIrqKind kind)).respond 0x0000 statusOk)

end Sys2Proof.Machine
end

