-- ==== Sys2Proof/Machine/Dispatch.lean ====
section
/-! DEFINITION. One arm per command (30_encoding.md R94). -/

namespace Sys2Proof.Machine

open Sys2Proof

/-- What one command does. -/
def exec (i : Instr) (s : State) : Host.Outcome State Fault Refusal :=
  match i with
  | .rb a => Sys2Proof.Machine.execRb a s
  | .wb a v => Sys2Proof.Machine.execWb a v s
  | .rw a => Sys2Proof.Machine.execRw a s
  | .ww a w => Sys2Proof.Machine.execWw a w s
  | .connect d start stop => Sys2Proof.Machine.execConnect d start stop s
  | .loadovl data => Sys2Proof.Machine.execLoadovl data s
  | .loadcart c => Sys2Proof.Machine.execLoadcart c s
  | .setboot enabled => Sys2Proof.Machine.execSetboot enabled s
  | .irq kind => Sys2Proof.Machine.execIrq kind s
  | .reset => Sys2Proof.Machine.execReset s
  | .dump => Sys2Proof.Machine.execDump s

end Sys2Proof.Machine
end

