-- ==== Sys2Proof/Machine/Step.lean ====
section
/-! DEFINITION. One step: the granted port finishes its word access or has its next command executed
(30_encoding.md R90, R103; 70_reset_and_hazards.md R194). -/

namespace Sys2Proof.Machine

open Sys2Proof

/-- One step. With nothing to do the block stays as it is (log entry 11). -/
def step (s : State) : Host.Outcome State Fault Refusal :=
  match s.grant with
  | none => .next s
  | some p =>
    let s := s.takeTurn p
    match (s.port p).half, (s.port p).queue with
    | some h, queue => .next ((s.withPort p ⟨queue, none⟩).finishHalf h)
    | none, [] => .next s
    | none, c :: rest =>
      match decode c with
      | .ok i => exec i (s.withPort p ⟨rest, none⟩)
      | .error why => .refused (.illegalCommand why)

/-- The state with a table word placed so that the next step executes it: first at its own port, which
moves next (log entry 1). -/
def State.withFetchWord (s : State) (nbits w : Nat) : State :=
  s.placeFirst (commandPort (tableCommand nbits w)) (tableCommand nbits w)

end Sys2Proof.Machine
end

