-- ==== Sys2Proof/Machine/Assembler.lean ====
section
/-! DEFINITION. The textual syntax of commands and the pseudo-commands (30_encoding.md R100, R101). An
operand outside its range is an assembly error, never truncated. `none` stands for an assembly error. -/

namespace Sys2Proof.Machine

open Sys2Proof

/-- The names a program may use for devices and cartridges (R100: `<dev>` and `<cart>` name a
`DeviceId` and a `CartId`). DESIGN CHOICE: the assembler is given them as a table (log entry 22). -/
structure Symbols where
  devices : List (String × DeviceId)
  carts : List (String × CartId)
  deriving DecidableEq, Repr

/-- A word, a number or a name, or a punctuation mark. -/
inductive Token where
  | word (text : List Char)
  | comma
  | openBracket
  | closeBracket
  deriving DecidableEq, Repr

/-- The word gathered so far (kept in reverse), if any. -/
def flushWord : List Char → List Token
  | [] => []
  | acc => [.word acc.reverse]

/-- A line cut into tokens; `;` to the end of the line is a comment (R100). -/
def lexLine : List Char → List Char → Option (List Token)
  | [], acc => some (flushWord acc)
  | c :: rest, acc =>
    if c = ';' then some (flushWord acc)
    else if c.isAlphanum || c = '_' then lexLine rest (c :: acc)
    else
      match lexLine rest [] with
      | none => none
      | some more =>
        if c = ' ' || c = '\t' || c = '\r' then some (flushWord acc ++ more)
        else if c = ',' then some (flushWord acc ++ .comma :: more)
        else if c = '[' then some (flushWord acc ++ .openBracket :: more)
        else if c = ']' then some (flushWord acc ++ .closeBracket :: more)
        else none

/-- The value of one digit in base 16, if it is one. -/
def digitValue (c : Char) : Option Nat :=
  if '0' ≤ c ∧ c ≤ '9' then some (c.toNat - 48)
  else if 'a' ≤ c ∧ c ≤ 'f' then some (c.toNat - 87)
  else if 'A' ≤ c ∧ c ≤ 'F' then some (c.toNat - 55)
  else none

/-- The digits' value in a base, onto a value read so far. -/
def digitsValue (base : Nat) : List Char → Nat → Option Nat
  | [], n => some n
  | c :: rest, n =>
    match digitValue c with
    | some d => if d < base then digitsValue base rest (n * base + d) else none
    | none => none

/-- A number, decimal or `0x` hexadecimal (R100). -/
def numberOf : Token → Option Nat
  | .word ('0' :: 'x' :: d :: rest) => digitsValue 16 (d :: rest) 0
  | .word (d :: rest) => digitsValue 10 (d :: rest) 0
  | _ => none

/-- An operand of `bits` bits: a number in its range, never truncated (R100). -/
def operand (bits : Nat) (t : Token) : Option (BitVec bits) :=
  match numberOf t with
  | some n => if n < 2 ^ bits then some (BitVec.ofNat bits n) else none
  | none => none

/-- The token is this word. -/
def Token.is (t : Token) (s : String) : Bool := t == .word s.toList

/-- The identity a name stands for. -/
def symbolOf {α : Type} (t : Token) : List (String × α) → Option α
  | [] => none
  | (name, x) :: rest => if t.is name then some x else symbolOf t rest

/-- `irq`'s kind: 0..15, or the name vblank for 0 (R100). -/
def kindOperand (t : Token) : Option (BitVec 4) :=
  if t.is "vblank" then some 0 else operand 4 t

/-- `<byte>, <byte>, ... ]`, at least one byte. -/
def bytesOperand : List Token → Option (List Byte)
  | [t, .closeBracket] => (operand 8 t).map (fun v => [v])
  | t :: .comma :: rest =>
    match operand 8 t, bytesOperand rest with
    | some v, some more => some (v :: more)
    | _, _ => none
  | _ => none

/-- LOADOVL's image in brackets; `[]` is empty (R100). -/
def imageOperand : List Token → Option (List Byte)
  | [.openBracket, .closeBracket] => some []
  | .openBracket :: rest => bytesOperand rest
  | _ => none

/-- One command or pseudo-command from its mnemonic and operands (R100, R101). -/
def assembleTokens (sym : Symbols) (m : Token) (args : List Token) : Option Instr :=
  if m.is "rb" then
    match args with
    | [t] => (operand 16 t).map .rb
    | _ => none
  else if m.is "wb" then
    match args with
    | [t, .comma, u] => (operand 16 t).bind (fun a => (operand 8 u).map (.wb a))
    | _ => none
  else if m.is "rw" then
    match args with
    | [t] => (operand 16 t).map .rw
    | _ => none
  else if m.is "ww" then
    match args with
    | [t, .comma, u] => (operand 16 t).bind (fun a => (operand 16 u).map (.ww a))
    | _ => none
  else if m.is "connect" then
    match args with
    | [d, .comma, t, .comma, u] =>
      (symbolOf d sym.devices).bind (fun d => (operand 16 t).bind (fun a => (operand 16 u).map (.connect d a)))
    | _ => none
  else if m.is "loadovl" then (imageOperand args).map .loadovl
  else if m.is "loadcart" then
    match args with
    | [c] => (symbolOf c sym.carts).map .loadcart
    | _ => none
  else if m.is "setboot" then
    match args with
    | [t] => (operand 1 t).map (fun v => .setboot (v.getLsbD 0))
    | _ => none
  else if m.is "irq" then
    match args with
    | [t] => (kindOperand t).map .irq
    | _ => none
  else if m.is "reset" then (if args = [] then some .reset else none)
  else if m.is "dump" then (if args = [] then some .dump else none)
  else if m.is "booton" then (if args = [] then some (.setboot true) else none)
  else if m.is "bootoff" then (if args = [] then some (.setboot false) else none)
  else if m.is "bind" then
    match args with
    | [d, .comma, t] => (symbolOf d sym.devices).bind (fun d => (operand 16 t).map (fun a => .connect d a a))
    | _ => none
  else if m.is "vblank" then (if args = [] then some (.irq 0) else none)
  else none

/-- One line: at most one command (R100). -/
def assembleLine (sym : Symbols) (line : List Char) : Option (List Instr) :=
  match lexLine line [] with
  | none => none
  | some [] => some []
  | some (m :: args) => (assembleTokens sym m args).map (fun i => [i])

/-- A text cut at its line ends; `acc` is the current line in reverse. -/
def splitLines : List Char → List Char → List (List Char)
  | [], acc => [acc.reverse]
  | c :: rest, acc => if c = '\n' then acc.reverse :: splitLines rest [] else splitLines rest (c :: acc)

/-- The lines' commands, in order. -/
def assembleLines (sym : Symbols) : List (List Char) → Option (List Instr)
  | [] => some []
  | l :: rest =>
    match assembleLine sym l, assembleLines sym rest with
    | some here, some more => some (here ++ more)
    | _, _ => none

/-- A text of commands, one per line, as the commands it stands for (R100, R101). -/
def assemble (sym : Symbols) (text : String) : Option (List Command) :=
  (assembleLines sym (splitLines text.toList [])).map (fun is => is.map encode)

end Sys2Proof.Machine
end

