-- ==== Sys2Proof/Safety.lean ====
section
/-! DEFINITION. What counts as a safe run, and the invariants statements speak of. -/

namespace Sys2Proof.Machine

open Sys2Proof

/-- Every store is in canonical form and inside its fixed length, and so is the registry
(10_state.md R41, R32). -/
structure State.Canonical (s : State) : Prop where
  stores : ∀ st, (s.store st).wf
  bounds : ∀ st, ∀ c ∈ s.store st, c.1 < storeSize st
  registry : s.reg.wf

/-- Echo RAM holds exactly the bytes written to the mirrored part of work RAM: an index below 7680
that a work-RAM write has reached holds that same byte in both stores, and one that none has reached
is unwritten in both (10_state.md R29, 20_memory.md R59, 70_reset_and_hazards.md R186). -/
def State.EchoMirrorsWorkRam (s : State) : Prop :=
  ∀ i, i < storeSize .echo → Memory.read s.echo i = Memory.read s.wram i

/-- Everything the spec calls router state (10_state.md R20) is the same in both: the output log, the
interface and the model's own fields are not part of it. -/
structure State.SameRouter (s t : State) : Prop where
  bootMode : t.bootMode = s.bootMode
  intFlag : t.intFlag = s.intFlag
  intEnable : t.intEnable = s.intEnable
  dmg : t.dmg = s.dmg
  bytes : ∀ st i, t.byteAt st i = s.byteAt st i
  reg : t.reg = s.reg
  cart : t.cart = s.cart

/-- The command interface and the model's own fields are the same in both, but for the responses and
calls put out, the answers used, and the log. -/
structure State.SameInterface (s t : State) : Prop where
  bus : t.bus = s.bus
  irq : t.irq = s.irq
  host : t.host = s.host
  sched : t.sched = s.sched
  turns : t.turns = s.turns
  issuer : t.issuer = s.issuer

/-- Every command waiting at a port is legal (30_encoding.md R97). -/
def State.CommandsLegal (s : State) : Prop :=
  ∀ p, ∀ c ∈ (s.port p).queue, c.wellFormed = true

/-- The step has a meaning: it is neither refused nor a fault. -/
def State.SafeStep (s : State) : Prop := ∃ t, step s = .next t

/-- The states a router comes to after construction: by its own steps, by commands arriving, and by
the environment laying down answers and the merge (30_encoding.md R103, 92 D18). -/
inductive State.Reachable : State → Prop where
  | construction : State.Reachable State.reset
  | step {s t : State} : State.Reachable s → step s = .next t → State.Reachable t
  | arrival {s : State} (p : Port) (c : Command) : State.Reachable s → State.Reachable (s.arrive p c)
  | environment {s : State} (answers : List Byte) (sched : List Port) :
      State.Reachable s → State.Reachable { s with answers := answers, sched := sched }

/-- The first transaction of a command alone: the whole command, but for RW and WW the low half, the high
half being held (20_memory.md R72, R73). -/
def State.firstTransaction (s : State) : Instr → Host.Outcome State Fault Refusal
  | .rw a => .next ((s.afterRead a).holdHalf (.readHigh (s.readValue a) (nextAddr a)))
  | .ww a w => .next ((s.writeByte a (loByte w)).holdHalf (.writeHigh (hiByte w) (nextAddr a)))
  | .rb a => exec (.rb a) s
  | .wb a v => exec (.wb a v) s
  | .connect d start stop => exec (.connect d start stop) s
  | .loadovl data => exec (.loadovl data) s
  | .loadcart c => exec (.loadcart c) s
  | .setboot enabled => exec (.setboot enabled) s
  | .irq kind => exec (.irq kind) s
  | .reset => exec .reset s
  | .dump => exec .dump s

/-- Port `p` does its next transaction, and no more: the half it holds, or the first transaction of its
oldest command. None if it has nothing to do or that command spells nothing. -/
def State.transact (s : State) (p : Port) : Option State :=
  let s := s.takeTurn p
  match (s.port p).half, (s.port p).queue with
  | some h, queue => some ((s.withPort p ⟨queue, none⟩).finishHalf h)
  | none, [] => none
  | none, c :: rest =>
    match decode c with
    | .ok i =>
      match (s.withPort p ⟨rest, none⟩).firstTransaction i with
      | .next t => some t
      | .fault _ | .refused _ => none
    | .error _ => none

/-- The ports' transactions merged in the given order (30_encoding.md R103, 20_memory.md R72). -/
def State.merge (s : State) : List Port → Option State
  | [] => some s
  | p :: rest =>
    match s.transact p with
    | some t => State.merge t rest
    | none => none

/-- The host has bound a cartridge, as the spec asks before the first bus command
(70_reset_and_hazards.md R182). -/
def State.CartBound (s : State) : Prop := s.cart.isSome = true

end Sys2Proof.Machine
end

