-- ==== Sys2Proof/Certificates/Slice0/Obligations.lean ====
section
/-! DEFINITION. The statements for the provers. A next state is written as a record update of the state
before, so that each statement is also the frame: every field it does not name is unchanged. -/

open Sys2Proof Sys2Proof.Machine

/-! ### Construction and the invariants -/

/-- 10_state.md R38: what the block holds right after construction. `PowerOnFill` is a parameter
without a value. -/
def Obligations.ConstructionLeavesTheTableOfR38 : Prop :=
  State.reset.bootMode = true ∧ State.reset.intFlag = 0x00 ∧
  State.reset.intEnable = Config.powerOnIntEnable ∧ State.reset.dmg = Config.powerOnDmg ∧
  (∀ st i, i < storeSize st → State.reset.byteAt st i = Config.powerOnFill st i) ∧
  (∀ a, State.reset.binding a = none) ∧ State.reset.cart = none ∧ State.reset.log = []

/-- The two invariants below hold at construction. -/
def Obligations.ConstructionMeetsTheInvariants : Prop :=
  State.reset.Canonical ∧ State.reset.EchoMirrorsWorkRam

/-- Every step keeps the stores and the registry in canonical form and inside their fixed sizes. -/
def Obligations.StepKeepsStoresAndRegistryCanonical : Prop :=
  ∀ s t : State, s.Canonical → step s = .next t → t.Canonical

/-- Every step keeps echo RAM the image of the work-RAM writes (10_state.md R29, 20_memory.md R59,
R60; 70_reset_and_hazards.md R186). -/
def Obligations.StepKeepsEchoTheMirrorOfWorkRam : Prop :=
  ∀ s t : State, s.EchoMirrorsWorkRam → step s = .next t → t.EchoMirrorsWorkRam

/-! ### Encoding -/

/-- No operand bit is dropped: decoding an encoded command gives it back (30_encoding.md R91, R96). -/
def Obligations.DecodeOfEncodeIsTheCommand : Prop :=
  ∀ i : Instr, decode (encode i) = .ok i

/-- A command has one word: encoding what was decoded gives the same word and payload (R95,
R99). That a superfluous payload is refused is log entry 9. -/
def Obligations.EncodeOfDecodeIsTheWord : Prop :=
  ∀ (c : Command) (i : Instr), decode c = .ok i → encode i = c

/-- The decoder, written from the fields, accepts exactly the commands that the opcode table's masks
and the payload column make legal (R95, R97, R102). That a payload with an opcode that carries none is
refused is the model's reading (log entry 9, DEDUCED). -/
def Obligations.DecodeAcceptsExactlyTheOpcodeTable : Prop :=
  ∀ c : Command, (∃ i, decode c = .ok i) ↔ c.wellFormed = true

/-- No word is spelled by two rows of the opcode table (R102). -/
def Obligations.OpcodeRowsDoNotOverlap : Prop :=
  opcodeTable.Pairwise (fun r q => ∀ w : CmdWord, ¬ (r.matchesWord w = true ∧ q.matchesWord w = true))

/-- The encoded examples of 30_encoding.md R104, with the two illegal ones. -/
def Obligations.ExampleWordsOfR104Decode : Prop :=
  decode ⟨0x00C1230000, .absent⟩ = .ok (.rb 0xC123) ∧
  decode ⟨0x10C123005A, .absent⟩ = .ok (.wb 0xC123 0x5A) ∧
  decode ⟨0x20FFFE0000, .absent⟩ = .ok (.rw 0xFFFE) ∧
  decode ⟨0x30DDFFBEEF, .absent⟩ = .ok (.ww 0xDDFF 0xBEEF) ∧
  decode ⟨0x40FF40FF45, .device firstDevice⟩ = .ok (.connect firstDevice 0xFF40 0xFF45) ∧
  decode ⟨0x5000000000, .bytes [0xAB]⟩ = .ok (.loadovl [0xAB]) ∧
  decode ⟨0x6000000000, .cart firstCart⟩ = .ok (.loadcart firstCart) ∧
  decode ⟨0x7000000000, .absent⟩ = .ok (.setboot false) ∧
  decode ⟨0x7100000000, .absent⟩ = .ok (.setboot true) ∧
  decode ⟨0x8000000000, .absent⟩ = .ok (.irq 0) ∧
  decode ⟨0x8200000000, .absent⟩ = .ok (.irq 2) ∧
  decode ⟨0x9000000000, .absent⟩ = .ok .reset ∧
  decode ⟨0xA000000000, .absent⟩ = .ok .dump ∧
  decode ⟨0xB000000000, .absent⟩ = .error .noSuchOpcode ∧
  decode ⟨0x10C123015A, .absent⟩ = .error .mustBeZero

/-- 30_encoding.md R101: each pseudo-command stands for its expansion, whatever names are defined. The
table of names is the model's (log entry 22). -/
def Obligations.PseudoCommandsExpandAsR101 : Prop :=
  ∀ (sym : Symbols) (d a : Token),
    assembleTokens sym (.word "booton".toList) [] =
      assembleTokens sym (.word "setboot".toList) [.word "1".toList] ∧
    assembleTokens sym (.word "bootoff".toList) [] =
      assembleTokens sym (.word "setboot".toList) [.word "0".toList] ∧
    assembleTokens sym (.word "bind".toList) [d, .comma, a] =
      assembleTokens sym (.word "connect".toList) [d, .comma, a, .comma, a] ∧
    assembleTokens sym (.word "vblank".toList) [] =
      assembleTokens sym (.word "irq".toList) [.word "0".toList]

/-- 30_encoding.md R100: an operand is the number written, and one outside its range is an error.
What counts as a number's text is log entry 22. -/
def Obligations.OperandsAreNeverTruncated : Prop :=
  ∀ (bits : Nat) (t : Token),
    (∀ v, operand bits t = some v → numberOf t = some v.toNat) ∧
    (∀ n, numberOf t = some n → 2 ^ bits ≤ n → operand bits t = none)

/-! ### Steps and ports -/

/-- 30_encoding.md R90: the granted port's oldest command is taken from its queue and executed. Which
port is granted is log entry 2, and that a held word access comes before the queue is log entry 3. -/
def Obligations.StepExecutesTheGrantedCommand : Prop :=
  ∀ (s : State) (p : Port) (c : Command) (rest : List Command) (i : Instr),
    s.grant = some p → (s.port p).half = none → (s.port p).queue = c :: rest → decode c = .ok i →
    step s = exec i ((s.takeTurn p).withPort p ⟨rest, none⟩)

/-- 20_memory.md R72 makes a word access two transactions that other commands may come between. That the
second half is held at its port, and done when that port is granted and before its queue, is the model's
choice (log entry 3, DESIGN CHOICE). It acts at the second address, decoded as the state then stands. -/
def Obligations.StepFinishesAHeldWordAccess : Prop :=
  ∀ (s : State) (p : Port), s.grant = some p →
    let u := (s.takeTurn p).withPort p ⟨(s.port p).queue, none⟩
    (∀ lo a, (s.port p).half = some (.readHigh lo a) →
      step s = .next ((u.afterRead a).respond (u.readValue a ++ lo : BitVec 16) 0x00)) ∧
    (∀ hi a, (s.port p).half = some (.writeHigh hi a) →
      step s = .next ((u.writeByte a hi).respond 0x0000 0x00))

/-- 30_encoding.md R103: any port with something to do may move next, the one the merge names does, and
some port always does if any can. The same turn decides between the halves of a word access: named, the
issuer goes on, and any other port with something to do comes between. The schedule and the fallback are
the model's own (log entries 2 and 3). -/
def Obligations.AnyWaitingPortMayMoveNext : Prop :=
  ∀ (s : State) (p : Port), s.waiting p = true →
    (∃ q, s.grant = some q ∧ s.waiting q = true) ∧
    (s.nextTurn = p → s.grant = some p) ∧
    ({ s with sched := p :: s.sched } : State).grant = some p ∧
    ({ s with sched := p :: s.sched } : State).torn = (p != s.issuer) ∧
    ({ s with sched := s.issuer :: s.sched } : State).torn = false

/-- 30_encoding.md R103, 20_memory.md R72: every merge of the ports' transactions is a run. If `order`
names the ports of a merge from `s`, transaction by transaction (a word access is two), that leaves no
word access unfinished, then with `order` laid down as the schedule (log entries 2 and 3) the machine's
own steps, with nothing laid down in between, come to the state that merge comes to. -/
def Obligations.EveryMergeOfTransactionsIsARun : Prop :=
  ∀ (s t : State) (order later : List Port),
    State.merge { s with sched := order ++ later } order = some t → (∀ p, (t.port p).half = none) →
    ∃ k, Sys2Proof.core.run k { s with sched := order ++ later } = .next t

/-- 20_memory.md R72: a word access executed in one step is its two transactions, each on a turn of its
own: it does what holding the second half and stepping once more does. Holding is log entry 3. -/
def Obligations.WordAccessInOneStepIsTwoTurns : Prop :=
  ∀ s : State, s.torn = false → (s.port s.issuer).half = none →
    (∀ a, exec (.rw a) s = step ((s.afterRead a).withPort s.issuer
      ⟨(s.port s.issuer).queue, some (.readHigh (s.readValue a) (a + 1#16))⟩)) ∧
    (∀ a w, exec (.ww a w) s = step ((s.writeByte a (w.extractLsb' 0 8)).withPort s.issuer
      ⟨(s.port s.issuer).queue, some (.writeHigh (w.extractLsb' 8 8) (a + 1#16))⟩))

/-- With nothing to do the block stays as it is (the model's choice, log entry 11). -/
def Obligations.IdleStepChangesNothing : Prop :=
  ∀ s : State, (∀ p, s.waiting p = false) → step s = .next s

/-- A table word placed for the next step is what that step executes (log entry 1). -/
def Obligations.PlacedWordIsExecutedNext : Prop :=
  ∀ (s : State) (nbits w : Nat) (i : Instr), decodeTableWord nbits w = some i →
    step (s.withFetchWord nbits w) =
      exec i { s.withPort (homePort i) ⟨(s.port (homePort i)).queue, none⟩ with issuer := homePort i }

/-- 30_encoding.md R97, 60_exceptions.md R165: a command that spells nothing is refused (the spec's
decision D3; a superfluous payload is log entry 9). -/
def Obligations.IllegalCommandIsRefused : Prop :=
  ∀ (s : State) (p : Port) (c : Command) (rest : List Command),
    s.grant = some p → (s.port p).half = none → (s.port p).queue = c :: rest → c.wellFormed = false →
    ∃ why, step s = .refused (.illegalCommand why)

/-- 60_exceptions.md R160: legal commands never stop the block, whatever state it is in. -/
def Obligations.LegalCommandsNeverStopTheBlock : Prop :=
  ∀ s : State, s.CommandsLegal → ∃ t, step s = .next t ∧ t.CommandsLegal

/-- A step stops for one reason only: the granted port's next command spells nothing (a superfluous
payload among the reasons is log entry 9). -/
def Obligations.OnlyIllegalCommandsStopAStep : Prop :=
  ∀ s : State, s.SafeStep ∨
    ∃ p c rest why, s.grant = some p ∧ (s.port p).half = none ∧ (s.port p).queue = c :: rest ∧
      c.wellFormed = false ∧ step s = .refused (.illegalCommand why)

/-! ### Byte accesses, region by region -/

/-- 20_memory.md R52: a bound address goes to its peripheral in both directions, whatever the region,
and nothing else happens. Where the answered byte comes from (`answers`, then a free value counted by
`draws`) is the model's choice (log entry 6, DESIGN CHOICE). -/
def Obligations.BindingTakesPrecedenceOverEveryRegion : Prop :=
  ∀ (s : State) (a : Addr) (d : DeviceId), s.binding a = some d →
    (∀ v rest, s.answers = v :: rest →
      exec (.rb a) s = .next { s with
        answers := rest
        calls := s.calls ++ [.periphRead d a]
        responses := s.responses ++ [⟨s.issuer, v.zeroExtend 16, 0x00⟩] }) ∧
    (s.answers = [] →
      exec (.rb a) s = .next { s with
        draws := s.draws + 1
        calls := s.calls ++ [.periphRead d a]
        responses := s.responses ++ [⟨s.issuer, (Config.periphByte d a s.draws).zeroExtend 16, 0x00⟩] }) ∧
    (∀ v, exec (.wb a v) s = .next { s with
        calls := s.calls ++ [.periphWrite d a v]
        responses := s.responses ++ [⟨s.issuer, 0x0000, 0x00⟩] })

/-- 20_memory.md R56, R57: the cartridge windows. A read of 0x0000-0x00FF comes here only while boot mode
is off; a write comes here in either mode. That the cartridge gets the full bus address is the spec's
decision D11, and where the answered byte comes from (`answers`, then a free value counted by `draws`)
is the model's choice (log entry 6, DESIGN CHOICE). -/
def Obligations.CartridgeWindowsGoToTheCartridge : Prop :=
  ∀ (s : State) (a : Addr) (c : CartId), s.binding a = none → s.cart = some c →
    (a.toNat ≤ 0x7FFF ∨ (0xA000 ≤ a.toNat ∧ a.toNat ≤ 0xBFFF)) →
    (∀ v rest, s.answers = v :: rest → ¬ (a.toNat ≤ 0x00FF ∧ s.bootMode = true) →
      exec (.rb a) s = .next { s with
        answers := rest
        calls := s.calls ++ [.cartRead c a]
        responses := s.responses ++ [⟨s.issuer, v.zeroExtend 16, 0x00⟩] }) ∧
    (s.answers = [] → ¬ (a.toNat ≤ 0x00FF ∧ s.bootMode = true) →
      exec (.rb a) s = .next { s with
        draws := s.draws + 1
        calls := s.calls ++ [.cartRead c a]
        responses := s.responses ++ [⟨s.issuer, (Config.cartByte c a s.draws).zeroExtend 16, 0x00⟩] }) ∧
    (∀ v, exec (.wb a v) s = .next { s with
        calls := s.calls ++ [.cartWrite c a v]
        responses := s.responses ++ [⟨s.issuer, 0x0000, 0x00⟩] })

/-- 20_memory.md R66, R67: with no cartridge bound, its windows are unmapped. This is the spec's decision
D10 (log entry 18). -/
def Obligations.CartridgeWindowsWithoutCartridgeAreUnmapped : Prop :=
  ∀ (s : State) (a : Addr), s.binding a = none → s.cart = none →
    (a.toNat ≤ 0x7FFF ∨ (0xA000 ≤ a.toNat ∧ a.toNat ≤ 0xBFFF)) →
    (¬ (a.toNat ≤ 0x00FF ∧ s.bootMode = true) →
      exec (.rb a) s = .next { s with
        log := s.log ++ [.unmappedRead a]
        responses := s.responses ++ [⟨s.issuer, 0x0000, 0x00⟩] }) ∧
    (∀ v, exec (.wb a v) s = .next { s with
        log := s.log ++ [.unmappedWrite a v]
        responses := s.responses ++ [⟨s.issuer, 0x0000, 0x00⟩] })

/-- 20_memory.md R55: the overlay answers reads of 0x0000-0x00FF in boot mode, and there only; with
boot mode off, or above 0x00FF, the read goes to the cartridge, and no byte write reaches the overlay:
it goes to the cartridge in either mode. -/
def Obligations.OverlayIsReadInBootModeAndNeverWritten : Prop :=
  (∀ (s : State) (a : Addr), s.binding a = none → a.toNat ≤ 0x00FF → s.bootMode = true →
    exec (.rb a) s = .next { s with
      responses := s.responses ++ [⟨s.issuer, (s.byteAt .ovl a.toNat).zeroExtend 16, 0x00⟩] }) ∧
  (∀ (s : State) (a : Addr) (c : CartId), s.binding a = none → s.cart = some c → a.toNat ≤ 0x3FFF →
    (s.bootMode = false ∨ 0x0100 ≤ a.toNat) →
    ∃ t, exec (.rb a) s = .next t ∧ t.calls = s.calls ++ [.cartRead c a] ∧ s.SameRouter t) ∧
  (∀ (s : State) (a : Addr) (v : Byte) (c : CartId), s.binding a = none → s.cart = some c →
    a.toNat ≤ 0x00FF →
    ∃ t, exec (.wb a v) s = .next t ∧ t.calls = s.calls ++ [.cartWrite c a v] ∧ s.SameRouter t) ∧
  (∀ (s : State) (a : Addr) (v : Byte), ∃ t, exec (.wb a v) s = .next t ∧ t.ovl = s.ovl)

/-- 20_memory.md R58: work RAM reads back what was written, over all of its window. -/
def Obligations.WorkRamReadsBackWhatWasWritten : Prop :=
  ∀ (s : State) (a : Addr), s.binding a = none → 0xC000 ≤ a.toNat → a.toNat ≤ 0xDFFF →
    exec (.rb a) s = .next { s with
      responses := s.responses ++ [⟨s.issuer, (s.byteAt .wram (a.toNat - 0xC000)).zeroExtend 16, 0x00⟩] } ∧
    ∀ v, ∃ t, exec (.wb a v) s = .next t ∧ t.byteAt .wram (a.toNat - 0xC000) = v ∧
      exec (.rb a) t = .next { t with responses := t.responses ++ [⟨t.issuer, v.zeroExtend 16, 0x00⟩] }

/-- 20_memory.md R59: a work-RAM write to 0xC000-0xDDFF sets the echo byte in the same command, one to
0xDE00-0xDFFF does not, one diverted to a peripheral sets neither, and nothing else changes. -/
def Obligations.WorkRamWritesAreMirroredIntoEcho : Prop :=
  ∀ (s : State) (a : Addr) (v : Byte), 0xC000 ≤ a.toNat → a.toNat ≤ 0xDFFF →
    ∃ t, exec (.wb a v) s = .next t ∧
      (s.binding a = none →
        t = { s with wram := t.wram, echo := t.echo
                     responses := s.responses ++ [⟨s.issuer, 0x0000, 0x00⟩] } ∧
        (∀ i, t.byteAt .wram i = if i = a.toNat - 0xC000 then v else s.byteAt .wram i) ∧
        (∀ i, t.byteAt .echo i =
          if a.toNat ≤ 0xDDFF ∧ i = a.toNat - 0xC000 then v else s.byteAt .echo i)) ∧
      (s.binding a ≠ none → t.wram = s.wram ∧ t.echo = s.echo)

/-- 20_memory.md R60: the echo window reads the echo store, and a write to it changes no state and is
recorded. The write's half is the spec's decision D7 (log entry 16). -/
def Obligations.EchoWindowIsReadOnly : Prop :=
  ∀ (s : State) (a : Addr), s.binding a = none → 0xE000 ≤ a.toNat → a.toNat ≤ 0xFDFF →
    exec (.rb a) s = .next { s with
      responses := s.responses ++ [⟨s.issuer, (s.byteAt .echo (a.toNat - 0xE000)).zeroExtend 16, 0x00⟩] } ∧
    ∀ v, exec (.wb a v) s = .next { s with
      log := s.log ++ [.unmappedWrite a v]
      responses := s.responses ++ [⟨s.issuer, 0x0000, 0x00⟩] }

/-- 20_memory.md R61: IF, DMG and IE read and store all eight bits at their addresses. -/
def Obligations.SingleByteRegistersAreReadAndWritten : Prop :=
  ∀ s : State,
    (s.binding 0xFF0F#16 = none →
      exec (.rb 0xFF0F#16) s = .next { s with
        responses := s.responses ++ [⟨s.issuer, s.intFlag.zeroExtend 16, 0x00⟩] } ∧
      ∀ v, exec (.wb 0xFF0F#16 v) s = .next { s with
        intFlag := v, responses := s.responses ++ [⟨s.issuer, 0x0000, 0x00⟩] }) ∧
    (s.binding 0xFF50#16 = none →
      exec (.rb 0xFF50#16) s = .next { s with
        responses := s.responses ++ [⟨s.issuer, s.dmg.zeroExtend 16, 0x00⟩] } ∧
      ∀ v, exec (.wb 0xFF50#16 v) s = .next { s with
        dmg := v, responses := s.responses ++ [⟨s.issuer, 0x0000, 0x00⟩] }) ∧
    (s.binding 0xFFFF#16 = none →
      exec (.rb 0xFFFF#16) s = .next { s with
        responses := s.responses ++ [⟨s.issuer, s.intEnable.zeroExtend 16, 0x00⟩] } ∧
      ∀ v, exec (.wb 0xFFFF#16 v) s = .next { s with
        intEnable := v, responses := s.responses ++ [⟨s.issuer, 0x0000, 0x00⟩] })

/-- 20_memory.md R62: reserved scratch, all of its window but 0xFF50. -/
def Obligations.ReservedScratchIsReadAndWritten : Prop :=
  ∀ (s : State) (a : Addr), s.binding a = none → 0xFF4C ≤ a.toNat → a.toNat ≤ 0xFF7F → a ≠ 0xFF50#16 →
    exec (.rb a) s = .next { s with
      responses := s.responses ++ [⟨s.issuer, (s.byteAt .scr (a.toNat - 0xFF4C)).zeroExtend 16, 0x00⟩] } ∧
    (∀ v, ∃ t, exec (.wb a v) s = .next t ∧
      t = { s with scr := t.scr, responses := s.responses ++ [⟨s.issuer, 0x0000, 0x00⟩] } ∧
      ∀ i, t.byteAt .scr i = if i = a.toNat - 0xFF4C then v else s.byteAt .scr i) ∧
    a.toNat - 0xFF4C ≠ 4 ∧ a.toNat - 0xFF4C ≤ 51

/-- 20_memory.md R63: zero-page RAM. -/
def Obligations.ZeroPageRamIsReadAndWritten : Prop :=
  ∀ (s : State) (a : Addr), s.binding a = none → 0xFF80 ≤ a.toNat → a.toNat ≤ 0xFFFE →
    exec (.rb a) s = .next { s with
      responses := s.responses ++ [⟨s.issuer, (s.byteAt .zp (a.toNat - 0xFF80)).zeroExtend 16, 0x00⟩] } ∧
    (∀ v, ∃ t, exec (.wb a v) s = .next t ∧
      t = { s with zp := t.zp, responses := s.responses ++ [⟨s.issuer, 0x0000, 0x00⟩] } ∧
      ∀ i, t.byteAt .zp i = if i = a.toNat - 0xFF80 then v else s.byteAt .zp i) ∧
    a.toNat - 0xFF80 ≤ 126

/-- 20_memory.md R64: the unmapped addresses of each direction read 0x00, drop writes, and record
both; neither stops the block. That a write to 0xE000-0xFDFF is one of them is the spec's decision D7
(log entry 16, DEDUCED). -/
def Obligations.UnmappedAccessesAnswerZeroAndDropWrites : Prop :=
  ∀ (s : State) (a : Addr), s.binding a = none →
    ((0x8000 ≤ a.toNat ∧ a.toNat ≤ 0x9FFF) ∨ (0xFE00 ≤ a.toNat ∧ a.toNat ≤ 0xFF0E) ∨
      (0xFF10 ≤ a.toNat ∧ a.toNat ≤ 0xFF4B) →
      exec (.rb a) s = .next { s with
        log := s.log ++ [.unmappedRead a]
        responses := s.responses ++ [⟨s.issuer, 0x0000, 0x00⟩] }) ∧
    ((0x8000 ≤ a.toNat ∧ a.toNat ≤ 0x9FFF) ∨ (0xE000 ≤ a.toNat ∧ a.toNat ≤ 0xFDFF) ∨
      (0xFE00 ≤ a.toNat ∧ a.toNat ≤ 0xFF0E) ∨ (0xFF10 ≤ a.toNat ∧ a.toNat ≤ 0xFF4B) →
      ∀ v, exec (.wb a v) s = .next { s with
        log := s.log ++ [.unmappedWrite a v]
        responses := s.responses ++ [⟨s.issuer, 0x0000, 0x00⟩] })

/-- 40_bus_access.md R112: a byte read completes at every address in every state and changes no router
state; beside its response it makes one collaborator call or records one event, or neither. -/
def Obligations.ByteReadChangesNoRouterState : Prop :=
  ∀ (s : State) (a : Addr), ∃ t, exec (.rb a) s = .next t ∧ s.SameRouter t ∧ s.SameInterface t ∧
    (∃ rdata, t.responses = s.responses ++ [⟨s.issuer, rdata, 0x00⟩]) ∧
    ((t.log = s.log ∧ t.calls = s.calls ∧ t.answers = s.answers ∧ t.draws = s.draws) ∨
     (t.log = s.log ++ [.unmappedRead a] ∧ t.calls = s.calls ∧ t.answers = s.answers ∧ t.draws = s.draws) ∨
     (t.log = s.log ∧ ∃ d, t.calls = s.calls ++ [.periphRead d a]) ∨
     (t.log = s.log ∧ ∃ c, t.calls = s.calls ++ [.cartRead c a]))

/-- The frame of WB: it completes at every address in every state, stores to its target's cells only,
writes a register only where that is its target, and leaves everything else. -/
def Obligations.ByteWriteFrame : Prop :=
  ∀ (s : State) (a : Addr) (v : Byte), ∃ t, exec (.wb a v) s = .next t ∧
    (∀ st i, (st, i) ∈ targetCells (s.writeTarget a) → t.byteAt st i = v) ∧
    (∀ st i, (st, i) ∉ targetCells (s.writeTarget a) → t.byteAt st i = s.byteAt st i) ∧
    (s.writeTarget a ≠ .intFlag → t.intFlag = s.intFlag) ∧
    (s.writeTarget a ≠ .intEnable → t.intEnable = s.intEnable) ∧
    (s.writeTarget a ≠ .dmg → t.dmg = s.dmg) ∧
    t.bootMode = s.bootMode ∧ t.reg = s.reg ∧ t.cart = s.cart ∧ s.SameInterface t ∧
    t.answers = s.answers ∧ t.draws = s.draws ∧
    t.responses = s.responses ++ [⟨s.issuer, 0x0000, 0x00⟩] ∧
    t.log = (if s.writeTarget a = .unmapped then s.log ++ [.unmappedWrite a v] else s.log) ∧
    ((∀ d, s.writeTarget a ≠ .periph d) → (∀ c, s.writeTarget a ≠ .cart c) → t.calls = s.calls)

/-- 10_state.md R26: a write to 0xFF50 leaves boot mode, and SETBOOT leaves DMG. -/
def Obligations.BootModeIsIndependentOfDmg : Prop :=
  ∀ s : State,
    (∀ v, ∃ t, exec (.wb 0xFF50#16 v) s = .next t ∧ t.bootMode = s.bootMode) ∧
    (∀ e, ∃ t, exec (.setboot e) s = .next t ∧ t.dmg = s.dmg)

/-- The source's echo property: after a write to 0xC000-0xDDFF, the address 0x2000 above reads it. -/
def Obligations.EchoAddressReadsTheMirroredWrite : Prop :=
  ∀ (s : State) (a : Addr) (v : Byte), s.binding a = none → s.binding (a + 0x2000#16) = none →
    0xC000 ≤ a.toNat → a.toNat ≤ 0xDDFF →
    ∃ t, exec (.wb a v) s = .next t ∧ 0xE000 ≤ (a + 0x2000#16).toNat ∧ (a + 0x2000#16).toNat ≤ 0xFDFF ∧
      exec (.rb (a + 0x2000#16)) t =
        .next { t with responses := t.responses ++ [⟨t.issuer, v.zeroExtend 16, 0x00⟩] }

/-! ### Word accesses -/

/-- 40_bus_access.md R115: with no other port's command between its halves (log entry 3), RW reads the
byte at `a`, then the byte at `a + 1` modulo 2^16, and returns them high byte first. The order of the
halves and the wrap are the spec's decision D12 (log entry 19). -/
def Obligations.ReadWordReadsLowThenHigh : Prop :=
  ∀ (s : State) (a : Addr), s.torn = false →
    exec (.rw a) s = .next ((((s.afterRead a).takeTurn s.issuer).afterRead (a + 1#16)).respond
      ((s.afterRead a).readValue (a + 1#16) ++ s.readValue a : BitVec 16) 0x00)

/-- 40_bus_access.md R116: with no collaborator in either half, RW is the little-endian join of the
bytes RB returns at the two addresses in that state. That no command comes between is log entry 3; that
the second address of a word at 0xFFFF is 0x0000 is the spec's decision D12 (log entry 19). -/
def Obligations.ReadWordJoinsTheTwoByteReads : Prop :=
  ∀ (s : State) (a : Addr), s.torn = false →
    (∀ x ∈ [a, a + 1#16], (∀ d, s.readTarget x ≠ .periph d) ∧ ∀ c, s.readTarget x ≠ .cart c) →
    ∃ lo hi : Byte, ∃ t u v : State,
      exec (.rb a) s = .next t ∧ t.responses = s.responses ++ [⟨s.issuer, lo.zeroExtend 16, 0x00⟩] ∧
      exec (.rb (a + 1#16)) s = .next u ∧ u.responses = s.responses ++ [⟨s.issuer, hi.zeroExtend 16, 0x00⟩] ∧
      exec (.rw a) s = .next v ∧ v.responses = s.responses ++ [⟨s.issuer, (hi ++ lo : BitVec 16), 0x00⟩]

/-- 40_bus_access.md R117: with no other port's command between its halves (log entry 3), WW writes
`w[7:0]` at `a`, then `w[15:8]` at `a + 1` modulo 2^16. The order of the halves and the wrap are the
spec's decision D12 (log entry 19). -/
def Obligations.WriteWordWritesLowThenHigh : Prop :=
  ∀ (s : State) (a : Addr) (w : Word), s.torn = false →
    exec (.ww a w) s = .next
      ((((s.writeByte a (w.extractLsb' 0 8)).takeTurn s.issuer).writeByte (a + 1#16) (w.extractLsb' 8 8)).respond
        0x0000 0x00)

/-- 40_bus_access.md R118, the source's word property: over the writable windows, RW after WW returns
the word. That no other port's command comes between a word's halves is log entry 3. -/
def Obligations.ReadWordAfterWriteWordReturnsTheWord : Prop :=
  ∀ (s : State) (a : Addr) (w : Word), s.torn = false → s.binding a = none → s.binding (a + 1#16) = none →
    ((0xC000 ≤ a.toNat ∧ a.toNat ≤ 0xDFFE) ∨ (0xFF4C ≤ a.toNat ∧ a.toNat ≤ 0xFF4E) ∨
      (0xFF51 ≤ a.toNat ∧ a.toNat ≤ 0xFF7E) ∨ (0xFF80 ≤ a.toNat ∧ a.toNat ≤ 0xFFFD)) →
    ∃ t, exec (.ww a w) s = .next t ∧ (t.torn = false →
      exec (.rw a) t = .next { t.takeTurn t.issuer with responses := t.responses ++ [⟨t.issuer, w, 0x00⟩] })

/-- 20_memory.md R72: where another port's command comes between the halves, the word access does its
first transaction and waits, with no response yet. The merge that puts it there, and where the half is
held, are log entries 2 and 3. -/
def Obligations.TornWordAccessDoesItsFirstHalfAndWaits : Prop :=
  ∀ s : State, s.torn = true →
    (∀ a, exec (.rw a) s = .next ((s.afterRead a).withPort s.issuer
      ⟨(s.port s.issuer).queue, some (.readHigh (s.readValue a) (a + 1#16))⟩)) ∧
    (∀ a w, exec (.ww a w) s = .next ((s.writeByte a (w.extractLsb' 0 8)).withPort s.issuer
      ⟨(s.port s.issuer).queue, some (.writeHigh (w.extractLsb' 8 8) (a + 1#16))⟩))

/-- The frame of RW, torn (log entry 3) or not: no router state changes, and one turn of the merge is used
up if the second half was done. -/
def Obligations.ReadWordFrame : Prop :=
  ∀ (s : State) (a : Addr), ∃ t, exec (.rw a) s = .next t ∧ s.SameRouter t ∧
    t.sched = (if s.torn then s.sched else s.sched.tail) ∧
    t.turns = (if s.torn ∨ s.sched ≠ [] then s.turns else s.turns + 1) ∧ t.issuer = s.issuer ∧
    (∀ p, (t.port p).queue = (s.port p).queue) ∧ (∀ p, p ≠ s.issuer → t.port p = s.port p)

/-- The frame of WW, torn (log entry 3) or not: bytes outside the cells of its two halves keep their values, and so
does a register that is neither half's target. The second half is decoded after the first is written, and
its turn of the merge is used up if it was done. -/
def Obligations.WriteWordFrame : Prop :=
  ∀ (s : State) (a : Addr) (w : Word), ∃ t, exec (.ww a w) s = .next t ∧
    let first := s.writeTarget a
    let second := (s.writeByte a (w.extractLsb' 0 8)).writeTarget (a + 1#16)
    (∀ st i, (st, i) ∉ targetCells first → (st, i) ∉ targetCells second → t.byteAt st i = s.byteAt st i) ∧
    (first ≠ .intFlag → second ≠ .intFlag → t.intFlag = s.intFlag) ∧
    (first ≠ .intEnable → second ≠ .intEnable → t.intEnable = s.intEnable) ∧
    (first ≠ .dmg → second ≠ .dmg → t.dmg = s.dmg) ∧
    t.bootMode = s.bootMode ∧ t.reg = s.reg ∧ t.cart = s.cart ∧ t.answers = s.answers ∧ t.draws = s.draws ∧
    t.sched = (if s.torn then s.sched else s.sched.tail) ∧
    t.turns = (if s.torn ∨ s.sched ≠ [] then s.turns else s.turns + 1) ∧ t.issuer = s.issuer ∧
    (∀ p, (t.port p).queue = (s.port p).queue) ∧ (∀ p, p ≠ s.issuer → t.port p = s.port p)

/-- 70_reset_and_hazards.md R187: a word read can join a low byte from before another port's write with
a high byte from after it. Work RAM holds 0x11, 0x22; the bus reads the word, the host writes 0x99 to
its high byte in between, and the bus is answered 0x9911. The schedule is log entry 2 and the held half log
entry 3. -/
def Obligations.WordReadCanTear : Prop :=
  let s : State := { State.reset with
    wram := [(0, 0x11), (1, 0x22)]
    bus := ⟨[encode (.rw 0xC000)], none⟩
    host := ⟨[encode (.wb 0xC001 0x99)], none⟩
    sched := [.bus, .host, .bus] }
  ∃ t u v, step s = .next t ∧ step t = .next u ∧ step u = .next v ∧
    v.responses = [⟨.host, 0x0000, 0x00⟩, ⟨.bus, 0x9911, 0x00⟩]

/-! ### Control commands -/

/-- 41_control.md R130: CONNECT binds exactly the addresses of the inclusive range, none if it is
empty, and changes nothing else. An empty range and one that ends at 0xFFFF are the spec's decision D13
(log entry 20). -/
def Obligations.ConnectBindsTheInclusiveRange : Prop :=
  ∀ (s : State) (d : DeviceId) (start stop : Addr), ∃ t,
    exec (.connect d start stop) s = .next t ∧
    t = { s with reg := t.reg, responses := s.responses ++ [⟨s.issuer, 0x0000, 0x00⟩] } ∧
    ∀ x : Addr, t.binding x =
      if start.toNat ≤ x.toNat ∧ x.toNat ≤ stop.toNat then some d else s.binding x

/-- 41_control.md R131: a step may replace a binding but never removes one. -/
def Obligations.NoCommandRemovesABinding : Prop :=
  ∀ (s t : State) (a : Addr), step s = .next t → s.binding a ≠ none → t.binding a ≠ none

/-- 41_control.md R143: DUMP records every bound address of 0x0000..0xFFFF once, ascending, with its
device's name, and changes no state. The event's form is the spec's decision D20, and the registry's
canonical form is log entry 13. -/
def Obligations.DumpListsEveryBoundAddressInOrder : Prop :=
  ∀ s : State, s.reg.wf →
    exec .dump s = .next { s with
      log := s.log ++ (List.range 65536).filterMap (fun x =>
        (s.binding (BitVec.ofNat 16 x)).map (fun d => .dumpEntry (BitVec.ofNat 16 x) (Config.devName d)))
      responses := s.responses ++ [⟨s.issuer, 0x0000, 0x00⟩] }

/-- 41_control.md R144: after `connect p, 0xFF40, 0xFF45` on an empty registry, each of those addresses
delegates both directions to `p`, and a dump lists `p` once per address, ascending. -/
def Obligations.ConnectedRangeDelegatesAndIsDumpedOnce : Prop :=
  ∀ (s : State) (p : DeviceId), s.reg = [] → ∃ t,
    exec (.connect p 0xFF40#16 0xFF45#16) s = .next t ∧
    (∀ a : Addr, 0xFF40 ≤ a.toNat → a.toNat ≤ 0xFF45 →
      t.readTarget a = .periph p ∧ t.writeTarget a = .periph p) ∧
    ∃ u, exec .dump t = .next u ∧
      u.log = s.log ++ [.dumpEntry 0xFF40 (Config.devName p), .dumpEntry 0xFF41 (Config.devName p),
        .dumpEntry 0xFF42 (Config.devName p), .dumpEntry 0xFF43 (Config.devName p),
        .dumpEntry 0xFF44 (Config.devName p), .dumpEntry 0xFF45 (Config.devName p)]

/-- 41_control.md R134: LOADOVL of exactly 256 bytes succeeds and fills the overlay; a longer image
(257 bytes among them) fails with status 0x01 and leaves everything else as it was. -/
def Obligations.LoadOverlayIsAllOrNothing : Prop :=
  ∀ (s : State) (data : List Byte),
    (data.length = 256 → ∃ t, exec (.loadovl data) s = .next t ∧
      t.responses = s.responses ++ [⟨s.issuer, 0x0000, 0x00⟩] ∧
      ∀ i, i < 256 → data[i]? = some (t.byteAt .ovl i)) ∧
    (256 < data.length →
      exec (.loadovl data) s = .next { s with responses := s.responses ++ [⟨s.issuer, 0x0000, 0x01⟩] })

/-- 41_control.md R133: LOADOVL of at most 256 bytes copies them from offset 0 and changes no other
field. That the tail past a short image keeps its bytes is the spec's decision D14 (log entry 21). -/
def Obligations.LoadOverlayCopiesFromOffsetZero : Prop :=
  ∀ (s : State) (data : List Byte), data.length ≤ 256 → ∃ t, exec (.loadovl data) s = .next t ∧
    t = { s with ovl := t.ovl, responses := s.responses ++ [⟨s.issuer, 0x0000, 0x00⟩] } ∧
    ∀ i, t.byteAt .ovl i = (data[i]?).getD (s.byteAt .ovl i)

/-- 41_control.md R136: LOADCART binds the cartridge, replacing any other, records its description (the
spec's decision D21) and changes nothing else. -/
def Obligations.LoadCartridgeBindsAndReports : Prop :=
  ∀ (s : State) (c : CartId), exec (.loadcart c) s = .next { s with
    cart := some c
    log := s.log ++ [.cartLoaded (Config.cartDesc c)]
    responses := s.responses ++ [⟨s.issuer, 0x0000, 0x00⟩] }

/-- 41_control.md R137: SETBOOT sets boot mode and changes nothing else. -/
def Obligations.SetBootSetsBootModeOnly : Prop :=
  ∀ (s : State) (e : Bool), exec (.setboot e) s = .next { s with
    bootMode := e
    responses := s.responses ++ [⟨s.issuer, 0x0000, 0x00⟩] }

/-- 41_control.md R138: with boot mode on, address 0x0050 reads the overlay; after SETBOOT 0 the same
address is answered by the cartridge. Where its byte comes from is the model's choice (log entry 6), and
that it gets the full bus address is the spec's decision D11. -/
def Obligations.EndingBootModeUncoversTheCartridge : Prop :=
  ∀ (s : State) (c : CartId), s.binding 0x0050#16 = none → s.cart = some c → s.bootMode = true →
    ∃ t u w, exec (.rb 0x0050#16) s = .next t ∧
      t = { s with responses := s.responses ++ [⟨s.issuer, (s.byteAt .ovl 0x50).zeroExtend 16, 0x00⟩] } ∧
      exec (.setboot false) t = .next u ∧
      exec (.rb 0x0050#16) u = .next w ∧ w.calls = s.calls ++ [.cartRead c 0x0050#16] ∧
      w.responses = u.responses ++
        [⟨s.issuer, (s.answer (Config.cartByte c 0x0050#16)).zeroExtend 16, 0x00⟩]

/-- 41_control.md R140, 10_state.md R39: RESET turns boot mode on, clears IF and changes nothing else. That
IE, DMG, the RAMs and the log are kept is the spec's decision D6 (log entry 15). -/
def Obligations.ResetTouchesBootModeAndIntFlagOnly : Prop :=
  ∀ s : State, exec .reset s = .next { s with
    bootMode := true
    intFlag := 0x00
    responses := s.responses ++ [⟨s.issuer, 0x0000, 0x00⟩] }

/-- 42_interrupt_request.md R150, R152: vertical blank writes the full byte 0x01 to IF, past any
binding (the spec's decision D8, log entry 17); every other kind is recorded and changes no state. -/
def Obligations.InterruptRequestWritesTheFullByte : Prop :=
  ∀ (s : State) (kind : BitVec 4),
    (kind = 0#4 → exec (.irq kind) s = .next { s with
      intFlag := 0x01
      responses := s.responses ++ [⟨s.issuer, 0x0000, 0x00⟩] }) ∧
    (kind ≠ 0#4 → exec (.irq kind) s = .next { s with
      log := s.log ++ [.unknownIrqKind kind]
      responses := s.responses ++ [⟨s.issuer, 0x0000, 0x00⟩] })

/-! ### Rules about the whole block -/

/-- 10_state.md R20, the "written by" column: each element is written only by the commands its row
names, and IF by a bus write only at 0xFF0F (42_interrupt_request.md R153). -/
def Obligations.ElementsAreWrittenOnlyByTheirCommands : Prop :=
  ∀ (i : Instr) (s t : State), exec i s = .next t →
    (t.bootMode ≠ s.bootMode → (∃ e, i = .setboot e) ∨ i = .reset) ∧
    (t.intFlag ≠ s.intFlag → (∃ v, i = .wb 0xFF0F#16 v) ∨ (∃ a w, i = .ww a w ∧ (a = 0xFF0F#16 ∨ a + 1#16 = 0xFF0F#16)) ∨
      i = .irq 0 ∨ i = .reset) ∧
    (t.intEnable ≠ s.intEnable → (∃ v, i = .wb 0xFFFF#16 v) ∨ (∃ a w, i = .ww a w ∧ (a = 0xFFFF#16 ∨ a + 1#16 = 0xFFFF#16))) ∧
    (t.dmg ≠ s.dmg → (∃ v, i = .wb 0xFF50#16 v) ∨ (∃ a w, i = .ww a w ∧ (a = 0xFF50#16 ∨ a + 1#16 = 0xFF50#16))) ∧
    (t.ovl ≠ s.ovl → ∃ data, i = .loadovl data) ∧
    (t.wram ≠ s.wram ∨ t.echo ≠ s.echo ∨ t.scr ≠ s.scr ∨ t.zp ≠ s.zp →
      (∃ a v, i = .wb a v) ∨ (∃ a w, i = .ww a w)) ∧
    (t.reg ≠ s.reg → ∃ d start stop, i = .connect d start stop) ∧
    (t.cart ≠ s.cart → ∃ c, i = .loadcart c)

/-- 30_encoding.md R93: every command returns one response; `rdata` is zero but for RB and RW, and
`status` is OK but for LOADOVL of more than 256 bytes (the spec's decision D23). That it goes to the port
the command came on is the model's reading (log entry 12, DEDUCED); the order and the wrap in RW's word
are the spec's decision D12 (log entry 19, DEDUCED), and that no command comes between is log entry 3. -/
def Obligations.EveryCommandReturnsOneResponse : Prop :=
  ∀ (i : Instr) (s : State), s.torn = false → ∃ t rdata status, exec i s = .next t ∧
    t.responses = s.responses ++ [⟨s.issuer, rdata, status⟩] ∧
    (∀ a, i = .rb a → rdata = (s.readValue a).zeroExtend 16) ∧
    (∀ a, i = .rw a → rdata = ((s.afterRead a).readValue (a + 1#16) ++ s.readValue a : BitVec 16)) ∧
    ((∀ a, i ≠ .rb a) → (∀ a, i ≠ .rw a) → rdata = 0x0000) ∧
    ((∃ data, i = .loadovl data ∧ 256 < data.length) → status = 0x01) ∧
    ((¬ ∃ data, i = .loadovl data ∧ 256 < data.length) → status = 0x00)

/-- 10_state.md R34: the log starts empty, a step only appends to it, and no rule reads it: with any
other log before, the step does the same and appends the same events. -/
def Obligations.TheLogIsAppendOnlyAndNeverRead : Prop :=
  State.reset.log = [] ∧
  ∀ (s t : State), step s = .next t → ∃ es, t.log = s.log ++ es ∧
    ∀ l, step { s with log := l } = .next { t with log := l ++ es }

/-- 10_state.md R30, R31: what S.SCR[4] and S.ZP[127] hold is never observable. States that differ in
those two bytes only take the same steps, with the same responses, calls and events, and differ in
those two bytes only afterwards. -/
def Obligations.UnreachableBytesAreNeverObserved : Prop :=
  ∀ (s s' t : State),
    s' = { s with scr := s'.scr, zp := s'.zp } →
    (∀ i, i ≠ 4 → Memory.read s'.scr i = Memory.read s.scr i) →
    (∀ i, i ≠ 127 → Memory.read s'.zp i = Memory.read s.zp i) →
    step s = .next t →
    ∃ t', step s' = .next t' ∧ t' = { t with scr := t'.scr, zp := t'.zp } ∧
      (∀ i, i ≠ 4 → Memory.read t'.scr i = Memory.read t.scr i) ∧
      (∀ i, i ≠ 127 → Memory.read t'.zp i = Memory.read t.zp i)

/-- 60_exceptions.md R170: IE is stored and not interpreted. A command with no half at 0xFFFF does the
same whatever IE holds, and keeps it. -/
def Obligations.InterruptEnableIsNotInterpreted : Prop :=
  ∀ (i : Instr) (s : State) (v : Byte),
    (∀ a, i = .rb a → a ≠ 0xFFFF#16) → (∀ a x, i = .wb a x → a ≠ 0xFFFF#16) →
    (∀ a, i = .rw a → a ≠ 0xFFFF#16 ∧ a + 1#16 ≠ 0xFFFF#16) → (∀ a w, i = .ww a w → a ≠ 0xFFFF#16 ∧ a + 1#16 ≠ 0xFFFF#16) →
    ∃ t, exec i s = .next t ∧ t.intEnable = s.intEnable ∧
      exec i { s with intEnable := v } = .next { t with intEnable := v }
end

