-- ==== Sys2Proof/Laws/Decode.lean ====
section
/-! SUPPORT. The fields of a command word (30_encoding.md R91): packing then extracting gives the
fields back, and the fields make up the whole word. -/

namespace Sys2Proof

@[simp] theorem CmdWord.op_pack (op sub : BitVec 4) (a b : BitVec 16) : (CmdWord.pack op sub a b).op = op := by
  apply BitVec.eq_of_getLsbD_eq
  intro i hi
  simp [CmdWord.pack, CmdWord.op]
  interval_cases i <;> simp

@[simp] theorem CmdWord.sub_pack (op sub : BitVec 4) (a b : BitVec 16) : (CmdWord.pack op sub a b).sub = sub := by
  apply BitVec.eq_of_getLsbD_eq
  intro i hi
  simp [CmdWord.pack, CmdWord.sub]
  interval_cases i <;> simp

@[simp] theorem CmdWord.a_pack (op sub : BitVec 4) (a b : BitVec 16) : (CmdWord.pack op sub a b).a = a := by
  apply BitVec.eq_of_getLsbD_eq
  intro i hi
  simp [CmdWord.pack, CmdWord.a]
  interval_cases i <;> simp

@[simp] theorem CmdWord.b_pack (op sub : BitVec 4) (a b : BitVec 16) : (CmdWord.pack op sub a b).b = b := by
  apply BitVec.eq_of_getLsbD_eq
  intro i hi
  simp [CmdWord.pack, CmdWord.b]
  interval_cases i <;> simp

/-- The four fields make up the word: no bit lies outside them. -/
theorem CmdWord.pack_fields (w : CmdWord) : CmdWord.pack w.op w.sub w.a w.b = w := by
  apply BitVec.eq_of_getLsbD_eq
  intro i hi
  simp [CmdWord.pack, CmdWord.op, CmdWord.sub, CmdWord.a, CmdWord.b]
  interval_cases i <;> simp

/-- A decoded command passed its must-be-zero check and had its operands. -/
@[simp] theorem decodeChecked_eq_ok {z : Bool} {o : Option Instr} {i : Instr} :
    decodeChecked z o = .ok i ↔ z = true ∧ o = some i := by
  unfold decodeChecked
  split
  · cases o <;> simp_all
  · simp_all

@[simp] theorem Payload.ifAbsent_eq_some {p : Payload} {i j : Instr} :
    p.ifAbsent i = some j ↔ p = .absent ∧ i = j := by
  cases p <;> simp [Payload.ifAbsent]

@[simp] theorem Payload.device?_eq_some {p : Payload} {d : DeviceId} : p.device? = some d ↔ p = .device d := by
  cases p <;> simp [Payload.device?]

@[simp] theorem Payload.bytes?_eq_some {p : Payload} {l : List Byte} : p.bytes? = some l ↔ p = .bytes l := by
  cases p <;> simp [Payload.bytes?]

@[simp] theorem Payload.cart?_eq_some {p : Payload} {c : CartId} : p.cart? = some c ↔ p = .cart c := by
  cases p <;> simp [Payload.cart?]

/-- The low half of a zero-extended byte is the byte. -/
@[simp] theorem lowHalf_zeroExtend (v : Byte) : (v.zeroExtend 16).extractLsb' 0 8 = v := by
  apply BitVec.eq_of_getLsbD_eq
  intro i hi
  interval_cases i <;> simp

/-- The high half of a zero-extended byte is zero. -/
@[simp] theorem highHalf_zeroExtend (v : Byte) : (v.zeroExtend 16).extractLsb' 8 8 = 0 := by
  apply BitVec.eq_of_getLsbD_eq
  intro i hi
  interval_cases i <;> simp

end Sys2Proof
end

