-- ==== Sys2Proof/Laws/Memory.lean ====
section
/-! SUPPORT. A backing store as a memory: read after write, and that a write keeps the canonical form
and the bounds. -/

namespace Sys2Proof.Machine

open Sys2Proof

@[simp] theorem Memory.read_nil (i : Nat) : Memory.read [] i = none := rfl

theorem Memory.wf_nil : Memory.wf [] := List.Pairwise.nil

/-- A write is seen at its own index and nowhere else. -/
theorem Memory.read_write (m : Memory) (i j : Nat) (v : Byte) :
    Memory.read (Memory.write m i v) j = if j = i then some v else Memory.read m j := by
  induction m with
  | nil => simp [Memory.write, Memory.read, eq_comm]
  | cons c rest ih =>
    obtain ⟨k, x⟩ := c
    unfold Memory.write
    split
    · by_cases h : j = i
      · simp [Memory.read, h]
      · simp [Memory.read, h, Ne.symm h]
    · split
      · rename_i hik
        subst hik
        by_cases h : j = i
        · simp [Memory.read, h]
        · simp [Memory.read, h, Ne.symm h]
      · rename_i hik
        by_cases h : k = j
        · subst h; simp [Memory.read, Ne.symm hik]
        · simp [Memory.read, h, ih]

@[simp] theorem Memory.read_write_same (m : Memory) (i : Nat) (v : Byte) :
    Memory.read (Memory.write m i v) i = some v := by simp [Memory.read_write]

theorem Memory.read_write_other (m : Memory) {i j : Nat} (v : Byte) (h : j ≠ i) :
    Memory.read (Memory.write m i v) j = Memory.read m j := by simp [Memory.read_write, h]

/-- A cell of a written store is the written one or an old one. -/
theorem Memory.mem_write {m : Memory} {i : Nat} {v : Byte} {c : Host.Cell}
    (h : c ∈ Memory.write m i v) : c = (i, v) ∨ c ∈ m := by
  induction m with
  | nil => simpa [Memory.write] using h
  | cons d rest ih =>
    obtain ⟨k, x⟩ := d
    unfold Memory.write at h
    split at h
    · simpa using h
    · split at h
      · rcases List.mem_cons.1 h with h | h
        · exact .inl h
        · exact .inr (List.mem_cons_of_mem _ h)
      · rcases List.mem_cons.1 h with h | h
        · exact .inr (h ▸ List.mem_cons_self)
        · exact (ih h).imp_right (List.mem_cons_of_mem _)

/-- A write keeps the canonical form. -/
theorem Memory.write_wf {m : Memory} (h : Memory.wf m) (i : Nat) (v : Byte) :
    Memory.wf (Memory.write m i v) := by
  induction m with
  | nil => exact List.pairwise_singleton _ _
  | cons d rest ih =>
    obtain ⟨k, x⟩ := d
    have ⟨hk, hr⟩ := List.pairwise_cons.1 h
    unfold Memory.write
    split
    · rename_i hik
      refine List.pairwise_cons.2 ⟨fun c hc => ?_, h⟩
      rcases List.mem_cons.1 hc with hc | hc
      · subst hc; exact hik
      · exact Nat.lt_trans hik (hk c hc)
    · split
      · rename_i hik
        subst hik
        exact List.pairwise_cons.2 ⟨hk, hr⟩
      · refine List.pairwise_cons.2 ⟨fun c hc => ?_, ih hr⟩
        rcases Memory.mem_write hc with hc | hc
        · subst hc; show k < i; omega
        · exact hk c hc

/-- A write inside the bounds keeps every index inside them. -/
theorem Memory.write_bounds {m : Memory} {n : Nat} (h : ∀ c ∈ m, c.1 < n) {i : Nat} (hi : i < n)
    (v : Byte) : ∀ c ∈ Memory.write m i v, c.1 < n := by
  intro c hc
  rcases Memory.mem_write hc with hc | hc
  · subst hc; exact hi
  · exact h c hc

/-- In canonical form, a listed cell is what its index reads as. -/
theorem Memory.read_of_mem {m : Memory} (h : Memory.wf m) {c : Host.Cell} (hc : c ∈ m) :
    Memory.read m c.1 = some c.2 := by
  induction m with
  | nil => simp at hc
  | cons d rest ih =>
    obtain ⟨k, x⟩ := d
    have ⟨hk, hr⟩ := List.pairwise_cons.1 h
    rcases List.mem_cons.1 hc with hc | hc
    · subst hc; simp [Memory.read]
    · have := hk c hc
      simp only at this
      simp [Memory.read, Nat.ne_of_lt this, ih hr hc]

end Sys2Proof.Machine
end

