-- ==== Sys2Proof/Laws/Registry.lean ====
section
/-! SUPPORT. The peripheral registry: what a CONNECT binds, and that it keeps the canonical form. -/

namespace Sys2Proof.Machine

open Sys2Proof

@[simp] theorem Registry.lookup_nil (x : Nat) : Registry.lookup [] x = none := rfl

theorem Registry.wf_nil : Registry.wf [] := ⟨List.Pairwise.nil, by simp⟩

theorem Registry.lookup_append (r q : Registry) (x : Nat) :
    Registry.lookup (r ++ q) x = (Registry.lookup r x).or (Registry.lookup q x) := by
  induction r with
  | nil => simp
  | cons e rest ih =>
    obtain ⟨k, d⟩ := e
    by_cases h : k = x <;> simp [Registry.lookup, h, ih]

theorem Registry.lookup_filter (r : Registry) (p : Nat → Bool) (x : Nat) :
    Registry.lookup (r.filter (fun e => p e.1)) x = if p x then Registry.lookup r x else none := by
  induction r with
  | nil => simp
  | cons e rest ih =>
    obtain ⟨k, d⟩ := e
    by_cases h : k = x
    · subst h
      by_cases hp : p k <;> simp_all [Registry.lookup]
    · by_cases hp : p k <;> simp_all [Registry.lookup]

theorem Registry.lookup_range (d : DeviceId) (lo n x : Nat) :
    Registry.lookup ((List.range' lo n).map (fun y => (y, d))) x = if lo ≤ x ∧ x < lo + n then some d else none := by
  induction n generalizing lo with
  | zero => simp
  | succ n ih =>
    simp only [List.range'_succ, List.map_cons, Registry.lookup, ih]
    by_cases h : lo = x
    · subst h; simp
    · simp only [h, if_false]
      congr 1
      simp only [eq_iff_iff]
      omega

/-- CONNECT's effect on one address (41_control.md R130, R131). -/
theorem Registry.lookup_bind (r : Registry) (d : DeviceId) (lo hi x : Nat) :
    Registry.lookup (r.bind d lo hi) x = if lo ≤ x ∧ x ≤ hi then some d else Registry.lookup r x := by
  unfold Registry.bind
  split
  · rw [if_neg (by omega)]
  · rename_i h
    rw [Registry.lookup_append, Registry.lookup_append, Registry.lookup_range,
      Registry.lookup_filter r (fun k => decide (k < lo)), Registry.lookup_filter r (fun k => decide (hi < k))]
    by_cases h1 : x < lo
    · have h2 : ¬ hi < x := by omega
      have h3 : ¬ lo ≤ x := by omega
      simp [h1, h2, h3]
    · by_cases h2 : hi < x
      · have h3 : ¬ (lo ≤ x ∧ x < lo + (hi + 1 - lo)) := by omega
        have h4 : ¬ (lo ≤ x ∧ x ≤ hi) := by omega
        simp [h1, h2, h3, h4]
      · have h3 : lo ≤ x ∧ x < lo + (hi + 1 - lo) := by omega
        have h4 : lo ≤ x ∧ x ≤ hi := by omega
        simp [h1, h3, h4]

/-- CONNECT keeps the canonical form. -/
theorem Registry.bind_wf {r : Registry} (h : Registry.wf r) (d : DeviceId) (lo hi : Nat)
    (hhi : hi < 65536) : Registry.wf (r.bind d lo hi) := by
  obtain ⟨hp, hb⟩ := h
  unfold Registry.bind
  split
  · exact ⟨hp, hb⟩
  · refine ⟨?_, ?_⟩
    · rw [List.pairwise_append, List.pairwise_append]
      refine ⟨hp.sublist List.filter_sublist, ⟨?_, hp.sublist List.filter_sublist, ?_⟩, ?_⟩
      · exact List.pairwise_map.2 List.pairwise_lt_range'
      · intro x hx y hy
        simp only [List.mem_map, List.mem_range'_1, List.mem_filter, decide_eq_true_eq] at hx hy
        obtain ⟨k, hk, rfl⟩ := hx
        simp only; omega
      · intro x hx y hy
        simp only [List.mem_append, List.mem_map, List.mem_range'_1, List.mem_filter, decide_eq_true_eq] at hx hy
        rcases hy with ⟨k, hk, rfl⟩ | hy
        · simp only; omega
        · omega
    · intro e he
      simp only [List.mem_append, List.mem_map, List.mem_range'_1, List.mem_filter] at he
      rcases he with he | ⟨k, hk, rfl⟩ | he
      · exact hb e he.1
      · simp only; omega
      · exact hb e he.1

/-- In canonical form, a listed entry is what its address is bound to. -/
theorem Registry.lookup_of_mem {r : Registry} (h : Registry.wf r) {e : Nat × DeviceId} (he : e ∈ r) :
    Registry.lookup r e.1 = some e.2 := by
  obtain ⟨hp, -⟩ := h
  induction r with
  | nil => simp at he
  | cons f rest ih =>
    obtain ⟨k, d⟩ := f
    have ⟨hk, hr⟩ := List.pairwise_cons.1 hp
    rcases List.mem_cons.1 he with he | he
    · subst he; simp [Registry.lookup]
    · have := hk e he
      simp only at this
      simp [Registry.lookup, Nat.ne_of_lt this, ih he hr]

/-- A binding found was listed. -/
theorem Registry.mem_of_lookup {r : Registry} {x : Nat} {d : DeviceId}
    (h : Registry.lookup r x = some d) : (x, d) ∈ r := by
  induction r with
  | nil => simp at h
  | cons f rest ih =>
    obtain ⟨k, e⟩ := f
    unfold Registry.lookup at h
    split at h
    · rename_i hk
      subst hk
      simp_all
    · exact List.mem_cons_of_mem _ (ih h)

end Sys2Proof.Machine
end

