-- ==== Sys2Proof/Laws/State.lean ====
section
/-! SUPPORT. Every field after every update of State, so that no later proof unfolds a record update.
A field an update writes has the value written; every other field is as it was. -/

-- one proof at a time: many small proofs side by side would start a thread each
set_option Elab.async false

namespace Sys2Proof.Machine

open Sys2Proof

/-! ### `State.withBootMode` -/

@[simp] theorem withBootMode_bootMode (s : State) (v : Bool) : (s.withBootMode v).bootMode = v := rfl
@[simp] theorem withBootMode_intFlag (s : State) (v : Bool) : (s.withBootMode v).intFlag = s.intFlag := rfl
@[simp] theorem withBootMode_intEnable (s : State) (v : Bool) : (s.withBootMode v).intEnable = s.intEnable := rfl
@[simp] theorem withBootMode_dmg (s : State) (v : Bool) : (s.withBootMode v).dmg = s.dmg := rfl
@[simp] theorem withBootMode_ovl (s : State) (v : Bool) : (s.withBootMode v).ovl = s.ovl := rfl
@[simp] theorem withBootMode_wram (s : State) (v : Bool) : (s.withBootMode v).wram = s.wram := rfl
@[simp] theorem withBootMode_echo (s : State) (v : Bool) : (s.withBootMode v).echo = s.echo := rfl
@[simp] theorem withBootMode_scr (s : State) (v : Bool) : (s.withBootMode v).scr = s.scr := rfl
@[simp] theorem withBootMode_zp (s : State) (v : Bool) : (s.withBootMode v).zp = s.zp := rfl
@[simp] theorem withBootMode_reg (s : State) (v : Bool) : (s.withBootMode v).reg = s.reg := rfl
@[simp] theorem withBootMode_cart (s : State) (v : Bool) : (s.withBootMode v).cart = s.cart := rfl
@[simp] theorem withBootMode_log (s : State) (v : Bool) : (s.withBootMode v).log = s.log := rfl
@[simp] theorem withBootMode_bus (s : State) (v : Bool) : (s.withBootMode v).bus = s.bus := rfl
@[simp] theorem withBootMode_irq (s : State) (v : Bool) : (s.withBootMode v).irq = s.irq := rfl
@[simp] theorem withBootMode_host (s : State) (v : Bool) : (s.withBootMode v).host = s.host := rfl
@[simp] theorem withBootMode_responses (s : State) (v : Bool) : (s.withBootMode v).responses = s.responses := rfl
@[simp] theorem withBootMode_calls (s : State) (v : Bool) : (s.withBootMode v).calls = s.calls := rfl
@[simp] theorem withBootMode_sched (s : State) (v : Bool) : (s.withBootMode v).sched = s.sched := rfl
@[simp] theorem withBootMode_turns (s : State) (v : Bool) : (s.withBootMode v).turns = s.turns := rfl
@[simp] theorem withBootMode_issuer (s : State) (v : Bool) : (s.withBootMode v).issuer = s.issuer := rfl
@[simp] theorem withBootMode_answers (s : State) (v : Bool) : (s.withBootMode v).answers = s.answers := rfl
@[simp] theorem withBootMode_draws (s : State) (v : Bool) : (s.withBootMode v).draws = s.draws := rfl
@[simp] theorem withBootMode_store (s : State) (v : Bool) (x : Store) : (s.withBootMode v).store x = s.store x := by cases x <;> rfl
@[simp] theorem withBootMode_byteAt (s : State) (v : Bool) (x : Store) (i : Nat) : (s.withBootMode v).byteAt x i = s.byteAt x i := by simp [State.byteAt]
@[simp] theorem withBootMode_port (s : State) (v : Bool) (p : Port) : (s.withBootMode v).port p = s.port p := by cases p <;> rfl
@[simp] theorem withBootMode_binding (s : State) (v : Bool) (a : Addr) : (s.withBootMode v).binding a = s.binding a := rfl

/-! ### `State.withIntFlag` -/

@[simp] theorem withIntFlag_bootMode (s : State) (v : Byte) : (s.withIntFlag v).bootMode = s.bootMode := rfl
@[simp] theorem withIntFlag_intFlag (s : State) (v : Byte) : (s.withIntFlag v).intFlag = v := rfl
@[simp] theorem withIntFlag_intEnable (s : State) (v : Byte) : (s.withIntFlag v).intEnable = s.intEnable := rfl
@[simp] theorem withIntFlag_dmg (s : State) (v : Byte) : (s.withIntFlag v).dmg = s.dmg := rfl
@[simp] theorem withIntFlag_ovl (s : State) (v : Byte) : (s.withIntFlag v).ovl = s.ovl := rfl
@[simp] theorem withIntFlag_wram (s : State) (v : Byte) : (s.withIntFlag v).wram = s.wram := rfl
@[simp] theorem withIntFlag_echo (s : State) (v : Byte) : (s.withIntFlag v).echo = s.echo := rfl
@[simp] theorem withIntFlag_scr (s : State) (v : Byte) : (s.withIntFlag v).scr = s.scr := rfl
@[simp] theorem withIntFlag_zp (s : State) (v : Byte) : (s.withIntFlag v).zp = s.zp := rfl
@[simp] theorem withIntFlag_reg (s : State) (v : Byte) : (s.withIntFlag v).reg = s.reg := rfl
@[simp] theorem withIntFlag_cart (s : State) (v : Byte) : (s.withIntFlag v).cart = s.cart := rfl
@[simp] theorem withIntFlag_log (s : State) (v : Byte) : (s.withIntFlag v).log = s.log := rfl
@[simp] theorem withIntFlag_bus (s : State) (v : Byte) : (s.withIntFlag v).bus = s.bus := rfl
@[simp] theorem withIntFlag_irq (s : State) (v : Byte) : (s.withIntFlag v).irq = s.irq := rfl
@[simp] theorem withIntFlag_host (s : State) (v : Byte) : (s.withIntFlag v).host = s.host := rfl
@[simp] theorem withIntFlag_responses (s : State) (v : Byte) : (s.withIntFlag v).responses = s.responses := rfl
@[simp] theorem withIntFlag_calls (s : State) (v : Byte) : (s.withIntFlag v).calls = s.calls := rfl
@[simp] theorem withIntFlag_sched (s : State) (v : Byte) : (s.withIntFlag v).sched = s.sched := rfl
@[simp] theorem withIntFlag_turns (s : State) (v : Byte) : (s.withIntFlag v).turns = s.turns := rfl
@[simp] theorem withIntFlag_issuer (s : State) (v : Byte) : (s.withIntFlag v).issuer = s.issuer := rfl
@[simp] theorem withIntFlag_answers (s : State) (v : Byte) : (s.withIntFlag v).answers = s.answers := rfl
@[simp] theorem withIntFlag_draws (s : State) (v : Byte) : (s.withIntFlag v).draws = s.draws := rfl
@[simp] theorem withIntFlag_store (s : State) (v : Byte) (x : Store) : (s.withIntFlag v).store x = s.store x := by cases x <;> rfl
@[simp] theorem withIntFlag_byteAt (s : State) (v : Byte) (x : Store) (i : Nat) : (s.withIntFlag v).byteAt x i = s.byteAt x i := by simp [State.byteAt]
@[simp] theorem withIntFlag_port (s : State) (v : Byte) (p : Port) : (s.withIntFlag v).port p = s.port p := by cases p <;> rfl
@[simp] theorem withIntFlag_binding (s : State) (v : Byte) (a : Addr) : (s.withIntFlag v).binding a = s.binding a := rfl

/-! ### `State.withIntEnable` -/

@[simp] theorem withIntEnable_bootMode (s : State) (v : Byte) : (s.withIntEnable v).bootMode = s.bootMode := rfl
@[simp] theorem withIntEnable_intFlag (s : State) (v : Byte) : (s.withIntEnable v).intFlag = s.intFlag := rfl
@[simp] theorem withIntEnable_intEnable (s : State) (v : Byte) : (s.withIntEnable v).intEnable = v := rfl
@[simp] theorem withIntEnable_dmg (s : State) (v : Byte) : (s.withIntEnable v).dmg = s.dmg := rfl
@[simp] theorem withIntEnable_ovl (s : State) (v : Byte) : (s.withIntEnable v).ovl = s.ovl := rfl
@[simp] theorem withIntEnable_wram (s : State) (v : Byte) : (s.withIntEnable v).wram = s.wram := rfl
@[simp] theorem withIntEnable_echo (s : State) (v : Byte) : (s.withIntEnable v).echo = s.echo := rfl
@[simp] theorem withIntEnable_scr (s : State) (v : Byte) : (s.withIntEnable v).scr = s.scr := rfl
@[simp] theorem withIntEnable_zp (s : State) (v : Byte) : (s.withIntEnable v).zp = s.zp := rfl
@[simp] theorem withIntEnable_reg (s : State) (v : Byte) : (s.withIntEnable v).reg = s.reg := rfl
@[simp] theorem withIntEnable_cart (s : State) (v : Byte) : (s.withIntEnable v).cart = s.cart := rfl
@[simp] theorem withIntEnable_log (s : State) (v : Byte) : (s.withIntEnable v).log = s.log := rfl
@[simp] theorem withIntEnable_bus (s : State) (v : Byte) : (s.withIntEnable v).bus = s.bus := rfl
@[simp] theorem withIntEnable_irq (s : State) (v : Byte) : (s.withIntEnable v).irq = s.irq := rfl
@[simp] theorem withIntEnable_host (s : State) (v : Byte) : (s.withIntEnable v).host = s.host := rfl
@[simp] theorem withIntEnable_responses (s : State) (v : Byte) : (s.withIntEnable v).responses = s.responses := rfl
@[simp] theorem withIntEnable_calls (s : State) (v : Byte) : (s.withIntEnable v).calls = s.calls := rfl
@[simp] theorem withIntEnable_sched (s : State) (v : Byte) : (s.withIntEnable v).sched = s.sched := rfl
@[simp] theorem withIntEnable_turns (s : State) (v : Byte) : (s.withIntEnable v).turns = s.turns := rfl
@[simp] theorem withIntEnable_issuer (s : State) (v : Byte) : (s.withIntEnable v).issuer = s.issuer := rfl
@[simp] theorem withIntEnable_answers (s : State) (v : Byte) : (s.withIntEnable v).answers = s.answers := rfl
@[simp] theorem withIntEnable_draws (s : State) (v : Byte) : (s.withIntEnable v).draws = s.draws := rfl
@[simp] theorem withIntEnable_store (s : State) (v : Byte) (x : Store) : (s.withIntEnable v).store x = s.store x := by cases x <;> rfl
@[simp] theorem withIntEnable_byteAt (s : State) (v : Byte) (x : Store) (i : Nat) : (s.withIntEnable v).byteAt x i = s.byteAt x i := by simp [State.byteAt]
@[simp] theorem withIntEnable_port (s : State) (v : Byte) (p : Port) : (s.withIntEnable v).port p = s.port p := by cases p <;> rfl
@[simp] theorem withIntEnable_binding (s : State) (v : Byte) (a : Addr) : (s.withIntEnable v).binding a = s.binding a := rfl

/-! ### `State.withDmg` -/

@[simp] theorem withDmg_bootMode (s : State) (v : Byte) : (s.withDmg v).bootMode = s.bootMode := rfl
@[simp] theorem withDmg_intFlag (s : State) (v : Byte) : (s.withDmg v).intFlag = s.intFlag := rfl
@[simp] theorem withDmg_intEnable (s : State) (v : Byte) : (s.withDmg v).intEnable = s.intEnable := rfl
@[simp] theorem withDmg_dmg (s : State) (v : Byte) : (s.withDmg v).dmg = v := rfl
@[simp] theorem withDmg_ovl (s : State) (v : Byte) : (s.withDmg v).ovl = s.ovl := rfl
@[simp] theorem withDmg_wram (s : State) (v : Byte) : (s.withDmg v).wram = s.wram := rfl
@[simp] theorem withDmg_echo (s : State) (v : Byte) : (s.withDmg v).echo = s.echo := rfl
@[simp] theorem withDmg_scr (s : State) (v : Byte) : (s.withDmg v).scr = s.scr := rfl
@[simp] theorem withDmg_zp (s : State) (v : Byte) : (s.withDmg v).zp = s.zp := rfl
@[simp] theorem withDmg_reg (s : State) (v : Byte) : (s.withDmg v).reg = s.reg := rfl
@[simp] theorem withDmg_cart (s : State) (v : Byte) : (s.withDmg v).cart = s.cart := rfl
@[simp] theorem withDmg_log (s : State) (v : Byte) : (s.withDmg v).log = s.log := rfl
@[simp] theorem withDmg_bus (s : State) (v : Byte) : (s.withDmg v).bus = s.bus := rfl
@[simp] theorem withDmg_irq (s : State) (v : Byte) : (s.withDmg v).irq = s.irq := rfl
@[simp] theorem withDmg_host (s : State) (v : Byte) : (s.withDmg v).host = s.host := rfl
@[simp] theorem withDmg_responses (s : State) (v : Byte) : (s.withDmg v).responses = s.responses := rfl
@[simp] theorem withDmg_calls (s : State) (v : Byte) : (s.withDmg v).calls = s.calls := rfl
@[simp] theorem withDmg_sched (s : State) (v : Byte) : (s.withDmg v).sched = s.sched := rfl
@[simp] theorem withDmg_turns (s : State) (v : Byte) : (s.withDmg v).turns = s.turns := rfl
@[simp] theorem withDmg_issuer (s : State) (v : Byte) : (s.withDmg v).issuer = s.issuer := rfl
@[simp] theorem withDmg_answers (s : State) (v : Byte) : (s.withDmg v).answers = s.answers := rfl
@[simp] theorem withDmg_draws (s : State) (v : Byte) : (s.withDmg v).draws = s.draws := rfl
@[simp] theorem withDmg_store (s : State) (v : Byte) (x : Store) : (s.withDmg v).store x = s.store x := by cases x <;> rfl
@[simp] theorem withDmg_byteAt (s : State) (v : Byte) (x : Store) (i : Nat) : (s.withDmg v).byteAt x i = s.byteAt x i := by simp [State.byteAt]
@[simp] theorem withDmg_port (s : State) (v : Byte) (p : Port) : (s.withDmg v).port p = s.port p := by cases p <;> rfl
@[simp] theorem withDmg_binding (s : State) (v : Byte) (a : Addr) : (s.withDmg v).binding a = s.binding a := rfl

/-! ### `State.withReg` -/

@[simp] theorem withReg_bootMode (s : State) (r : Registry) : (s.withReg r).bootMode = s.bootMode := rfl
@[simp] theorem withReg_intFlag (s : State) (r : Registry) : (s.withReg r).intFlag = s.intFlag := rfl
@[simp] theorem withReg_intEnable (s : State) (r : Registry) : (s.withReg r).intEnable = s.intEnable := rfl
@[simp] theorem withReg_dmg (s : State) (r : Registry) : (s.withReg r).dmg = s.dmg := rfl
@[simp] theorem withReg_ovl (s : State) (r : Registry) : (s.withReg r).ovl = s.ovl := rfl
@[simp] theorem withReg_wram (s : State) (r : Registry) : (s.withReg r).wram = s.wram := rfl
@[simp] theorem withReg_echo (s : State) (r : Registry) : (s.withReg r).echo = s.echo := rfl
@[simp] theorem withReg_scr (s : State) (r : Registry) : (s.withReg r).scr = s.scr := rfl
@[simp] theorem withReg_zp (s : State) (r : Registry) : (s.withReg r).zp = s.zp := rfl
@[simp] theorem withReg_reg (s : State) (r : Registry) : (s.withReg r).reg = r := rfl
@[simp] theorem withReg_cart (s : State) (r : Registry) : (s.withReg r).cart = s.cart := rfl
@[simp] theorem withReg_log (s : State) (r : Registry) : (s.withReg r).log = s.log := rfl
@[simp] theorem withReg_bus (s : State) (r : Registry) : (s.withReg r).bus = s.bus := rfl
@[simp] theorem withReg_irq (s : State) (r : Registry) : (s.withReg r).irq = s.irq := rfl
@[simp] theorem withReg_host (s : State) (r : Registry) : (s.withReg r).host = s.host := rfl
@[simp] theorem withReg_responses (s : State) (r : Registry) : (s.withReg r).responses = s.responses := rfl
@[simp] theorem withReg_calls (s : State) (r : Registry) : (s.withReg r).calls = s.calls := rfl
@[simp] theorem withReg_sched (s : State) (r : Registry) : (s.withReg r).sched = s.sched := rfl
@[simp] theorem withReg_turns (s : State) (r : Registry) : (s.withReg r).turns = s.turns := rfl
@[simp] theorem withReg_issuer (s : State) (r : Registry) : (s.withReg r).issuer = s.issuer := rfl
@[simp] theorem withReg_answers (s : State) (r : Registry) : (s.withReg r).answers = s.answers := rfl
@[simp] theorem withReg_draws (s : State) (r : Registry) : (s.withReg r).draws = s.draws := rfl
@[simp] theorem withReg_store (s : State) (r : Registry) (x : Store) : (s.withReg r).store x = s.store x := by cases x <;> rfl
@[simp] theorem withReg_byteAt (s : State) (r : Registry) (x : Store) (i : Nat) : (s.withReg r).byteAt x i = s.byteAt x i := by simp [State.byteAt]
@[simp] theorem withReg_port (s : State) (r : Registry) (p : Port) : (s.withReg r).port p = s.port p := by cases p <;> rfl
@[simp] theorem withReg_binding (s : State) (r : Registry) (a : Addr) : (s.withReg r).binding a = Registry.lookup r a.toNat := rfl

/-! ### `State.withCart` -/

@[simp] theorem withCart_bootMode (s : State) (c : Option CartId) : (s.withCart c).bootMode = s.bootMode := rfl
@[simp] theorem withCart_intFlag (s : State) (c : Option CartId) : (s.withCart c).intFlag = s.intFlag := rfl
@[simp] theorem withCart_intEnable (s : State) (c : Option CartId) : (s.withCart c).intEnable = s.intEnable := rfl
@[simp] theorem withCart_dmg (s : State) (c : Option CartId) : (s.withCart c).dmg = s.dmg := rfl
@[simp] theorem withCart_ovl (s : State) (c : Option CartId) : (s.withCart c).ovl = s.ovl := rfl
@[simp] theorem withCart_wram (s : State) (c : Option CartId) : (s.withCart c).wram = s.wram := rfl
@[simp] theorem withCart_echo (s : State) (c : Option CartId) : (s.withCart c).echo = s.echo := rfl
@[simp] theorem withCart_scr (s : State) (c : Option CartId) : (s.withCart c).scr = s.scr := rfl
@[simp] theorem withCart_zp (s : State) (c : Option CartId) : (s.withCart c).zp = s.zp := rfl
@[simp] theorem withCart_reg (s : State) (c : Option CartId) : (s.withCart c).reg = s.reg := rfl
@[simp] theorem withCart_cart (s : State) (c : Option CartId) : (s.withCart c).cart = c := rfl
@[simp] theorem withCart_log (s : State) (c : Option CartId) : (s.withCart c).log = s.log := rfl
@[simp] theorem withCart_bus (s : State) (c : Option CartId) : (s.withCart c).bus = s.bus := rfl
@[simp] theorem withCart_irq (s : State) (c : Option CartId) : (s.withCart c).irq = s.irq := rfl
@[simp] theorem withCart_host (s : State) (c : Option CartId) : (s.withCart c).host = s.host := rfl
@[simp] theorem withCart_responses (s : State) (c : Option CartId) : (s.withCart c).responses = s.responses := rfl
@[simp] theorem withCart_calls (s : State) (c : Option CartId) : (s.withCart c).calls = s.calls := rfl
@[simp] theorem withCart_sched (s : State) (c : Option CartId) : (s.withCart c).sched = s.sched := rfl
@[simp] theorem withCart_turns (s : State) (c : Option CartId) : (s.withCart c).turns = s.turns := rfl
@[simp] theorem withCart_issuer (s : State) (c : Option CartId) : (s.withCart c).issuer = s.issuer := rfl
@[simp] theorem withCart_answers (s : State) (c : Option CartId) : (s.withCart c).answers = s.answers := rfl
@[simp] theorem withCart_draws (s : State) (c : Option CartId) : (s.withCart c).draws = s.draws := rfl
@[simp] theorem withCart_store (s : State) (c : Option CartId) (x : Store) : (s.withCart c).store x = s.store x := by cases x <;> rfl
@[simp] theorem withCart_byteAt (s : State) (c : Option CartId) (x : Store) (i : Nat) : (s.withCart c).byteAt x i = s.byteAt x i := by simp [State.byteAt]
@[simp] theorem withCart_port (s : State) (c : Option CartId) (p : Port) : (s.withCart c).port p = s.port p := by cases p <;> rfl
@[simp] theorem withCart_binding (s : State) (c : Option CartId) (a : Addr) : (s.withCart c).binding a = s.binding a := rfl

/-! ### `State.emit` -/

@[simp] theorem emit_bootMode (s : State) (e : Diag) : (s.emit e).bootMode = s.bootMode := rfl
@[simp] theorem emit_intFlag (s : State) (e : Diag) : (s.emit e).intFlag = s.intFlag := rfl
@[simp] theorem emit_intEnable (s : State) (e : Diag) : (s.emit e).intEnable = s.intEnable := rfl
@[simp] theorem emit_dmg (s : State) (e : Diag) : (s.emit e).dmg = s.dmg := rfl
@[simp] theorem emit_ovl (s : State) (e : Diag) : (s.emit e).ovl = s.ovl := rfl
@[simp] theorem emit_wram (s : State) (e : Diag) : (s.emit e).wram = s.wram := rfl
@[simp] theorem emit_echo (s : State) (e : Diag) : (s.emit e).echo = s.echo := rfl
@[simp] theorem emit_scr (s : State) (e : Diag) : (s.emit e).scr = s.scr := rfl
@[simp] theorem emit_zp (s : State) (e : Diag) : (s.emit e).zp = s.zp := rfl
@[simp] theorem emit_reg (s : State) (e : Diag) : (s.emit e).reg = s.reg := rfl
@[simp] theorem emit_cart (s : State) (e : Diag) : (s.emit e).cart = s.cart := rfl
@[simp] theorem emit_log (s : State) (e : Diag) : (s.emit e).log = s.log ++ [e] := rfl
@[simp] theorem emit_bus (s : State) (e : Diag) : (s.emit e).bus = s.bus := rfl
@[simp] theorem emit_irq (s : State) (e : Diag) : (s.emit e).irq = s.irq := rfl
@[simp] theorem emit_host (s : State) (e : Diag) : (s.emit e).host = s.host := rfl
@[simp] theorem emit_responses (s : State) (e : Diag) : (s.emit e).responses = s.responses := rfl
@[simp] theorem emit_calls (s : State) (e : Diag) : (s.emit e).calls = s.calls := rfl
@[simp] theorem emit_sched (s : State) (e : Diag) : (s.emit e).sched = s.sched := rfl
@[simp] theorem emit_turns (s : State) (e : Diag) : (s.emit e).turns = s.turns := rfl
@[simp] theorem emit_issuer (s : State) (e : Diag) : (s.emit e).issuer = s.issuer := rfl
@[simp] theorem emit_answers (s : State) (e : Diag) : (s.emit e).answers = s.answers := rfl
@[simp] theorem emit_draws (s : State) (e : Diag) : (s.emit e).draws = s.draws := rfl
@[simp] theorem emit_store (s : State) (e : Diag) (x : Store) : (s.emit e).store x = s.store x := by cases x <;> rfl
@[simp] theorem emit_byteAt (s : State) (e : Diag) (x : Store) (i : Nat) : (s.emit e).byteAt x i = s.byteAt x i := by simp [State.byteAt]
@[simp] theorem emit_port (s : State) (e : Diag) (p : Port) : (s.emit e).port p = s.port p := by cases p <;> rfl
@[simp] theorem emit_binding (s : State) (e : Diag) (a : Addr) : (s.emit e).binding a = s.binding a := rfl

/-! ### `State.emitAll` -/

@[simp] theorem emitAll_bootMode (s : State) (es : List Diag) : (s.emitAll es).bootMode = s.bootMode := rfl
@[simp] theorem emitAll_intFlag (s : State) (es : List Diag) : (s.emitAll es).intFlag = s.intFlag := rfl
@[simp] theorem emitAll_intEnable (s : State) (es : List Diag) : (s.emitAll es).intEnable = s.intEnable := rfl
@[simp] theorem emitAll_dmg (s : State) (es : List Diag) : (s.emitAll es).dmg = s.dmg := rfl
@[simp] theorem emitAll_ovl (s : State) (es : List Diag) : (s.emitAll es).ovl = s.ovl := rfl
@[simp] theorem emitAll_wram (s : State) (es : List Diag) : (s.emitAll es).wram = s.wram := rfl
@[simp] theorem emitAll_echo (s : State) (es : List Diag) : (s.emitAll es).echo = s.echo := rfl
@[simp] theorem emitAll_scr (s : State) (es : List Diag) : (s.emitAll es).scr = s.scr := rfl
@[simp] theorem emitAll_zp (s : State) (es : List Diag) : (s.emitAll es).zp = s.zp := rfl
@[simp] theorem emitAll_reg (s : State) (es : List Diag) : (s.emitAll es).reg = s.reg := rfl
@[simp] theorem emitAll_cart (s : State) (es : List Diag) : (s.emitAll es).cart = s.cart := rfl
@[simp] theorem emitAll_log (s : State) (es : List Diag) : (s.emitAll es).log = s.log ++ es := rfl
@[simp] theorem emitAll_bus (s : State) (es : List Diag) : (s.emitAll es).bus = s.bus := rfl
@[simp] theorem emitAll_irq (s : State) (es : List Diag) : (s.emitAll es).irq = s.irq := rfl
@[simp] theorem emitAll_host (s : State) (es : List Diag) : (s.emitAll es).host = s.host := rfl
@[simp] theorem emitAll_responses (s : State) (es : List Diag) : (s.emitAll es).responses = s.responses := rfl
@[simp] theorem emitAll_calls (s : State) (es : List Diag) : (s.emitAll es).calls = s.calls := rfl
@[simp] theorem emitAll_sched (s : State) (es : List Diag) : (s.emitAll es).sched = s.sched := rfl
@[simp] theorem emitAll_turns (s : State) (es : List Diag) : (s.emitAll es).turns = s.turns := rfl
@[simp] theorem emitAll_issuer (s : State) (es : List Diag) : (s.emitAll es).issuer = s.issuer := rfl
@[simp] theorem emitAll_answers (s : State) (es : List Diag) : (s.emitAll es).answers = s.answers := rfl
@[simp] theorem emitAll_draws (s : State) (es : List Diag) : (s.emitAll es).draws = s.draws := rfl
@[simp] theorem emitAll_store (s : State) (es : List Diag) (x : Store) : (s.emitAll es).store x = s.store x := by cases x <;> rfl
@[simp] theorem emitAll_byteAt (s : State) (es : List Diag) (x : Store) (i : Nat) : (s.emitAll es).byteAt x i = s.byteAt x i := by simp [State.byteAt]
@[simp] theorem emitAll_port (s : State) (es : List Diag) (p : Port) : (s.emitAll es).port p = s.port p := by cases p <;> rfl
@[simp] theorem emitAll_binding (s : State) (es : List Diag) (a : Addr) : (s.emitAll es).binding a = s.binding a := rfl

/-! ### `State.respond` -/

@[simp] theorem respond_bootMode (s : State) (d : Word) (st : Byte) : (s.respond d st).bootMode = s.bootMode := rfl
@[simp] theorem respond_intFlag (s : State) (d : Word) (st : Byte) : (s.respond d st).intFlag = s.intFlag := rfl
@[simp] theorem respond_intEnable (s : State) (d : Word) (st : Byte) : (s.respond d st).intEnable = s.intEnable := rfl
@[simp] theorem respond_dmg (s : State) (d : Word) (st : Byte) : (s.respond d st).dmg = s.dmg := rfl
@[simp] theorem respond_ovl (s : State) (d : Word) (st : Byte) : (s.respond d st).ovl = s.ovl := rfl
@[simp] theorem respond_wram (s : State) (d : Word) (st : Byte) : (s.respond d st).wram = s.wram := rfl
@[simp] theorem respond_echo (s : State) (d : Word) (st : Byte) : (s.respond d st).echo = s.echo := rfl
@[simp] theorem respond_scr (s : State) (d : Word) (st : Byte) : (s.respond d st).scr = s.scr := rfl
@[simp] theorem respond_zp (s : State) (d : Word) (st : Byte) : (s.respond d st).zp = s.zp := rfl
@[simp] theorem respond_reg (s : State) (d : Word) (st : Byte) : (s.respond d st).reg = s.reg := rfl
@[simp] theorem respond_cart (s : State) (d : Word) (st : Byte) : (s.respond d st).cart = s.cart := rfl
@[simp] theorem respond_log (s : State) (d : Word) (st : Byte) : (s.respond d st).log = s.log := rfl
@[simp] theorem respond_bus (s : State) (d : Word) (st : Byte) : (s.respond d st).bus = s.bus := rfl
@[simp] theorem respond_irq (s : State) (d : Word) (st : Byte) : (s.respond d st).irq = s.irq := rfl
@[simp] theorem respond_host (s : State) (d : Word) (st : Byte) : (s.respond d st).host = s.host := rfl
@[simp] theorem respond_responses (s : State) (d : Word) (st : Byte) : (s.respond d st).responses = s.responses ++ [⟨s.issuer, d, st⟩] := rfl
@[simp] theorem respond_calls (s : State) (d : Word) (st : Byte) : (s.respond d st).calls = s.calls := rfl
@[simp] theorem respond_sched (s : State) (d : Word) (st : Byte) : (s.respond d st).sched = s.sched := rfl
@[simp] theorem respond_turns (s : State) (d : Word) (st : Byte) : (s.respond d st).turns = s.turns := rfl
@[simp] theorem respond_issuer (s : State) (d : Word) (st : Byte) : (s.respond d st).issuer = s.issuer := rfl
@[simp] theorem respond_answers (s : State) (d : Word) (st : Byte) : (s.respond d st).answers = s.answers := rfl
@[simp] theorem respond_draws (s : State) (d : Word) (st : Byte) : (s.respond d st).draws = s.draws := rfl
@[simp] theorem respond_store (s : State) (d : Word) (st : Byte) (x : Store) : (s.respond d st).store x = s.store x := by cases x <;> rfl
@[simp] theorem respond_byteAt (s : State) (d : Word) (st : Byte) (x : Store) (i : Nat) : (s.respond d st).byteAt x i = s.byteAt x i := by simp [State.byteAt]
@[simp] theorem respond_port (s : State) (d : Word) (st : Byte) (p : Port) : (s.respond d st).port p = s.port p := by cases p <;> rfl
@[simp] theorem respond_binding (s : State) (d : Word) (st : Byte) (a : Addr) : (s.respond d st).binding a = s.binding a := rfl

/-! ### `State.callOut` -/

@[simp] theorem callOut_bootMode (s : State) (c : Call) : (s.callOut c).bootMode = s.bootMode := rfl
@[simp] theorem callOut_intFlag (s : State) (c : Call) : (s.callOut c).intFlag = s.intFlag := rfl
@[simp] theorem callOut_intEnable (s : State) (c : Call) : (s.callOut c).intEnable = s.intEnable := rfl
@[simp] theorem callOut_dmg (s : State) (c : Call) : (s.callOut c).dmg = s.dmg := rfl
@[simp] theorem callOut_ovl (s : State) (c : Call) : (s.callOut c).ovl = s.ovl := rfl
@[simp] theorem callOut_wram (s : State) (c : Call) : (s.callOut c).wram = s.wram := rfl
@[simp] theorem callOut_echo (s : State) (c : Call) : (s.callOut c).echo = s.echo := rfl
@[simp] theorem callOut_scr (s : State) (c : Call) : (s.callOut c).scr = s.scr := rfl
@[simp] theorem callOut_zp (s : State) (c : Call) : (s.callOut c).zp = s.zp := rfl
@[simp] theorem callOut_reg (s : State) (c : Call) : (s.callOut c).reg = s.reg := rfl
@[simp] theorem callOut_cart (s : State) (c : Call) : (s.callOut c).cart = s.cart := rfl
@[simp] theorem callOut_log (s : State) (c : Call) : (s.callOut c).log = s.log := rfl
@[simp] theorem callOut_bus (s : State) (c : Call) : (s.callOut c).bus = s.bus := rfl
@[simp] theorem callOut_irq (s : State) (c : Call) : (s.callOut c).irq = s.irq := rfl
@[simp] theorem callOut_host (s : State) (c : Call) : (s.callOut c).host = s.host := rfl
@[simp] theorem callOut_responses (s : State) (c : Call) : (s.callOut c).responses = s.responses := rfl
@[simp] theorem callOut_calls (s : State) (c : Call) : (s.callOut c).calls = s.calls ++ [c] := rfl
@[simp] theorem callOut_sched (s : State) (c : Call) : (s.callOut c).sched = s.sched := rfl
@[simp] theorem callOut_turns (s : State) (c : Call) : (s.callOut c).turns = s.turns := rfl
@[simp] theorem callOut_issuer (s : State) (c : Call) : (s.callOut c).issuer = s.issuer := rfl
@[simp] theorem callOut_answers (s : State) (c : Call) : (s.callOut c).answers = s.answers := rfl
@[simp] theorem callOut_draws (s : State) (c : Call) : (s.callOut c).draws = s.draws := rfl
@[simp] theorem callOut_store (s : State) (c : Call) (x : Store) : (s.callOut c).store x = s.store x := by cases x <;> rfl
@[simp] theorem callOut_byteAt (s : State) (c : Call) (x : Store) (i : Nat) : (s.callOut c).byteAt x i = s.byteAt x i := by simp [State.byteAt]
@[simp] theorem callOut_port (s : State) (c : Call) (p : Port) : (s.callOut c).port p = s.port p := by cases p <;> rfl
@[simp] theorem callOut_binding (s : State) (c : Call) (a : Addr) : (s.callOut c).binding a = s.binding a := rfl

/-! ### `State.withStore` and `State.setByte` -/

@[simp] theorem withStore_bootMode (s : State) (st : Store) (m : Memory) : (s.withStore st m).bootMode = s.bootMode := by cases st <;> rfl
@[simp] theorem withStore_intFlag (s : State) (st : Store) (m : Memory) : (s.withStore st m).intFlag = s.intFlag := by cases st <;> rfl
@[simp] theorem withStore_intEnable (s : State) (st : Store) (m : Memory) : (s.withStore st m).intEnable = s.intEnable := by cases st <;> rfl
@[simp] theorem withStore_dmg (s : State) (st : Store) (m : Memory) : (s.withStore st m).dmg = s.dmg := by cases st <;> rfl
@[simp] theorem withStore_reg (s : State) (st : Store) (m : Memory) : (s.withStore st m).reg = s.reg := by cases st <;> rfl
@[simp] theorem withStore_cart (s : State) (st : Store) (m : Memory) : (s.withStore st m).cart = s.cart := by cases st <;> rfl
@[simp] theorem withStore_log (s : State) (st : Store) (m : Memory) : (s.withStore st m).log = s.log := by cases st <;> rfl
@[simp] theorem withStore_bus (s : State) (st : Store) (m : Memory) : (s.withStore st m).bus = s.bus := by cases st <;> rfl
@[simp] theorem withStore_irq (s : State) (st : Store) (m : Memory) : (s.withStore st m).irq = s.irq := by cases st <;> rfl
@[simp] theorem withStore_host (s : State) (st : Store) (m : Memory) : (s.withStore st m).host = s.host := by cases st <;> rfl
@[simp] theorem withStore_responses (s : State) (st : Store) (m : Memory) : (s.withStore st m).responses = s.responses := by cases st <;> rfl
@[simp] theorem withStore_calls (s : State) (st : Store) (m : Memory) : (s.withStore st m).calls = s.calls := by cases st <;> rfl
@[simp] theorem withStore_sched (s : State) (st : Store) (m : Memory) : (s.withStore st m).sched = s.sched := by cases st <;> rfl
@[simp] theorem withStore_turns (s : State) (st : Store) (m : Memory) : (s.withStore st m).turns = s.turns := by cases st <;> rfl
@[simp] theorem withStore_issuer (s : State) (st : Store) (m : Memory) : (s.withStore st m).issuer = s.issuer := by cases st <;> rfl
@[simp] theorem withStore_answers (s : State) (st : Store) (m : Memory) : (s.withStore st m).answers = s.answers := by cases st <;> rfl
@[simp] theorem withStore_draws (s : State) (st : Store) (m : Memory) : (s.withStore st m).draws = s.draws := by cases st <;> rfl
@[simp] theorem withStore_store_same (s : State) (st : Store) (m : Memory) : (s.withStore st m).store st = m := by cases st <;> rfl
theorem withStore_store (s : State) (st x : Store) (m : Memory) :
    (s.withStore st m).store x = if x = st then m else s.store x := by cases st <;> cases x <;> rfl
@[simp] theorem withStore_port (s : State) (st : Store) (m : Memory) (p : Port) : (s.withStore st m).port p = s.port p := by cases st <;> cases p <;> rfl
@[simp] theorem withStore_binding (s : State) (st : Store) (m : Memory) (a : Addr) : (s.withStore st m).binding a = s.binding a := by cases st <;> rfl

@[simp] theorem setByte_bootMode (s : State) (st : Store) (i : Nat) (v : Byte) : (s.setByte st i v).bootMode = s.bootMode := by simp [State.setByte]
@[simp] theorem setByte_intFlag (s : State) (st : Store) (i : Nat) (v : Byte) : (s.setByte st i v).intFlag = s.intFlag := by simp [State.setByte]
@[simp] theorem setByte_intEnable (s : State) (st : Store) (i : Nat) (v : Byte) : (s.setByte st i v).intEnable = s.intEnable := by simp [State.setByte]
@[simp] theorem setByte_dmg (s : State) (st : Store) (i : Nat) (v : Byte) : (s.setByte st i v).dmg = s.dmg := by simp [State.setByte]
@[simp] theorem setByte_reg (s : State) (st : Store) (i : Nat) (v : Byte) : (s.setByte st i v).reg = s.reg := by simp [State.setByte]
@[simp] theorem setByte_cart (s : State) (st : Store) (i : Nat) (v : Byte) : (s.setByte st i v).cart = s.cart := by simp [State.setByte]
@[simp] theorem setByte_log (s : State) (st : Store) (i : Nat) (v : Byte) : (s.setByte st i v).log = s.log := by simp [State.setByte]
@[simp] theorem setByte_bus (s : State) (st : Store) (i : Nat) (v : Byte) : (s.setByte st i v).bus = s.bus := by simp [State.setByte]
@[simp] theorem setByte_irq (s : State) (st : Store) (i : Nat) (v : Byte) : (s.setByte st i v).irq = s.irq := by simp [State.setByte]
@[simp] theorem setByte_host (s : State) (st : Store) (i : Nat) (v : Byte) : (s.setByte st i v).host = s.host := by simp [State.setByte]
@[simp] theorem setByte_responses (s : State) (st : Store) (i : Nat) (v : Byte) : (s.setByte st i v).responses = s.responses := by simp [State.setByte]
@[simp] theorem setByte_calls (s : State) (st : Store) (i : Nat) (v : Byte) : (s.setByte st i v).calls = s.calls := by simp [State.setByte]
@[simp] theorem setByte_sched (s : State) (st : Store) (i : Nat) (v : Byte) : (s.setByte st i v).sched = s.sched := by simp [State.setByte]
@[simp] theorem setByte_turns (s : State) (st : Store) (i : Nat) (v : Byte) : (s.setByte st i v).turns = s.turns := by simp [State.setByte]
@[simp] theorem setByte_issuer (s : State) (st : Store) (i : Nat) (v : Byte) : (s.setByte st i v).issuer = s.issuer := by simp [State.setByte]
@[simp] theorem setByte_answers (s : State) (st : Store) (i : Nat) (v : Byte) : (s.setByte st i v).answers = s.answers := by simp [State.setByte]
@[simp] theorem setByte_draws (s : State) (st : Store) (i : Nat) (v : Byte) : (s.setByte st i v).draws = s.draws := by simp [State.setByte]
theorem setByte_store (s : State) (st x : Store) (i : Nat) (v : Byte) :
    (s.setByte st i v).store x = if x = st then Memory.write (s.store st) i v else s.store x := by simp [State.setByte, withStore_store]
@[simp] theorem setByte_port (s : State) (st : Store) (i : Nat) (v : Byte) (p : Port) : (s.setByte st i v).port p = s.port p := by simp [State.setByte]
@[simp] theorem setByte_binding (s : State) (st : Store) (i : Nat) (v : Byte) (a : Addr) : (s.setByte st i v).binding a = s.binding a := by simp [State.setByte]

/-! ### `State.setBytes` -/

@[simp] theorem setBytes_bootMode (s : State) (st : Store) (i : Nat) (l : List Byte) : (s.setBytes st i l).bootMode = s.bootMode := by
  induction l generalizing s i <;> simp [State.setBytes, *]
@[simp] theorem setBytes_intFlag (s : State) (st : Store) (i : Nat) (l : List Byte) : (s.setBytes st i l).intFlag = s.intFlag := by
  induction l generalizing s i <;> simp [State.setBytes, *]
@[simp] theorem setBytes_intEnable (s : State) (st : Store) (i : Nat) (l : List Byte) : (s.setBytes st i l).intEnable = s.intEnable := by
  induction l generalizing s i <;> simp [State.setBytes, *]
@[simp] theorem setBytes_dmg (s : State) (st : Store) (i : Nat) (l : List Byte) : (s.setBytes st i l).dmg = s.dmg := by
  induction l generalizing s i <;> simp [State.setBytes, *]
@[simp] theorem setBytes_reg (s : State) (st : Store) (i : Nat) (l : List Byte) : (s.setBytes st i l).reg = s.reg := by
  induction l generalizing s i <;> simp [State.setBytes, *]
@[simp] theorem setBytes_cart (s : State) (st : Store) (i : Nat) (l : List Byte) : (s.setBytes st i l).cart = s.cart := by
  induction l generalizing s i <;> simp [State.setBytes, *]
@[simp] theorem setBytes_log (s : State) (st : Store) (i : Nat) (l : List Byte) : (s.setBytes st i l).log = s.log := by
  induction l generalizing s i <;> simp [State.setBytes, *]
@[simp] theorem setBytes_bus (s : State) (st : Store) (i : Nat) (l : List Byte) : (s.setBytes st i l).bus = s.bus := by
  induction l generalizing s i <;> simp [State.setBytes, *]
@[simp] theorem setBytes_irq (s : State) (st : Store) (i : Nat) (l : List Byte) : (s.setBytes st i l).irq = s.irq := by
  induction l generalizing s i <;> simp [State.setBytes, *]
@[simp] theorem setBytes_host (s : State) (st : Store) (i : Nat) (l : List Byte) : (s.setBytes st i l).host = s.host := by
  induction l generalizing s i <;> simp [State.setBytes, *]
@[simp] theorem setBytes_responses (s : State) (st : Store) (i : Nat) (l : List Byte) : (s.setBytes st i l).responses = s.responses := by
  induction l generalizing s i <;> simp [State.setBytes, *]
@[simp] theorem setBytes_calls (s : State) (st : Store) (i : Nat) (l : List Byte) : (s.setBytes st i l).calls = s.calls := by
  induction l generalizing s i <;> simp [State.setBytes, *]
@[simp] theorem setBytes_sched (s : State) (st : Store) (i : Nat) (l : List Byte) : (s.setBytes st i l).sched = s.sched := by
  induction l generalizing s i <;> simp [State.setBytes, *]
@[simp] theorem setBytes_turns (s : State) (st : Store) (i : Nat) (l : List Byte) : (s.setBytes st i l).turns = s.turns := by
  induction l generalizing s i <;> simp [State.setBytes, *]
@[simp] theorem setBytes_issuer (s : State) (st : Store) (i : Nat) (l : List Byte) : (s.setBytes st i l).issuer = s.issuer := by
  induction l generalizing s i <;> simp [State.setBytes, *]
@[simp] theorem setBytes_answers (s : State) (st : Store) (i : Nat) (l : List Byte) : (s.setBytes st i l).answers = s.answers := by
  induction l generalizing s i <;> simp [State.setBytes, *]
@[simp] theorem setBytes_draws (s : State) (st : Store) (i : Nat) (l : List Byte) : (s.setBytes st i l).draws = s.draws := by
  induction l generalizing s i <;> simp [State.setBytes, *]
@[simp] theorem setBytes_port (s : State) (st : Store) (i : Nat) (l : List Byte) (p : Port) : (s.setBytes st i l).port p = s.port p := by
  induction l generalizing s i <;> simp [State.setBytes, *]
@[simp] theorem setBytes_binding (s : State) (st : Store) (i : Nat) (l : List Byte) (a : Addr) : (s.setBytes st i l).binding a = s.binding a := by
  induction l generalizing s i <;> simp [State.setBytes, *]

/-! ### `State.setCells` -/

@[simp] theorem setCells_bootMode (s : State) (v : Byte) (l : List (Store × Nat)) : (s.setCells v l).bootMode = s.bootMode := by
  induction l generalizing s <;> simp [State.setCells, *]
@[simp] theorem setCells_intFlag (s : State) (v : Byte) (l : List (Store × Nat)) : (s.setCells v l).intFlag = s.intFlag := by
  induction l generalizing s <;> simp [State.setCells, *]
@[simp] theorem setCells_intEnable (s : State) (v : Byte) (l : List (Store × Nat)) : (s.setCells v l).intEnable = s.intEnable := by
  induction l generalizing s <;> simp [State.setCells, *]
@[simp] theorem setCells_dmg (s : State) (v : Byte) (l : List (Store × Nat)) : (s.setCells v l).dmg = s.dmg := by
  induction l generalizing s <;> simp [State.setCells, *]
@[simp] theorem setCells_reg (s : State) (v : Byte) (l : List (Store × Nat)) : (s.setCells v l).reg = s.reg := by
  induction l generalizing s <;> simp [State.setCells, *]
@[simp] theorem setCells_cart (s : State) (v : Byte) (l : List (Store × Nat)) : (s.setCells v l).cart = s.cart := by
  induction l generalizing s <;> simp [State.setCells, *]
@[simp] theorem setCells_log (s : State) (v : Byte) (l : List (Store × Nat)) : (s.setCells v l).log = s.log := by
  induction l generalizing s <;> simp [State.setCells, *]
@[simp] theorem setCells_bus (s : State) (v : Byte) (l : List (Store × Nat)) : (s.setCells v l).bus = s.bus := by
  induction l generalizing s <;> simp [State.setCells, *]
@[simp] theorem setCells_irq (s : State) (v : Byte) (l : List (Store × Nat)) : (s.setCells v l).irq = s.irq := by
  induction l generalizing s <;> simp [State.setCells, *]
@[simp] theorem setCells_host (s : State) (v : Byte) (l : List (Store × Nat)) : (s.setCells v l).host = s.host := by
  induction l generalizing s <;> simp [State.setCells, *]
@[simp] theorem setCells_responses (s : State) (v : Byte) (l : List (Store × Nat)) : (s.setCells v l).responses = s.responses := by
  induction l generalizing s <;> simp [State.setCells, *]
@[simp] theorem setCells_calls (s : State) (v : Byte) (l : List (Store × Nat)) : (s.setCells v l).calls = s.calls := by
  induction l generalizing s <;> simp [State.setCells, *]
@[simp] theorem setCells_sched (s : State) (v : Byte) (l : List (Store × Nat)) : (s.setCells v l).sched = s.sched := by
  induction l generalizing s <;> simp [State.setCells, *]
@[simp] theorem setCells_turns (s : State) (v : Byte) (l : List (Store × Nat)) : (s.setCells v l).turns = s.turns := by
  induction l generalizing s <;> simp [State.setCells, *]
@[simp] theorem setCells_issuer (s : State) (v : Byte) (l : List (Store × Nat)) : (s.setCells v l).issuer = s.issuer := by
  induction l generalizing s <;> simp [State.setCells, *]
@[simp] theorem setCells_answers (s : State) (v : Byte) (l : List (Store × Nat)) : (s.setCells v l).answers = s.answers := by
  induction l generalizing s <;> simp [State.setCells, *]
@[simp] theorem setCells_draws (s : State) (v : Byte) (l : List (Store × Nat)) : (s.setCells v l).draws = s.draws := by
  induction l generalizing s <;> simp [State.setCells, *]
@[simp] theorem setCells_port (s : State) (v : Byte) (l : List (Store × Nat)) (p : Port) : (s.setCells v l).port p = s.port p := by
  induction l generalizing s <;> simp [State.setCells, *]
@[simp] theorem setCells_binding (s : State) (v : Byte) (l : List (Store × Nat)) (a : Addr) : (s.setCells v l).binding a = s.binding a := by
  induction l generalizing s <;> simp [State.setCells, *]

/-! ### `State.withPort` -/

@[simp] theorem withPort_bootMode (s : State) (p : Port) (ps : PortState) : (s.withPort p ps).bootMode = s.bootMode := by cases p <;> rfl
@[simp] theorem withPort_intFlag (s : State) (p : Port) (ps : PortState) : (s.withPort p ps).intFlag = s.intFlag := by cases p <;> rfl
@[simp] theorem withPort_intEnable (s : State) (p : Port) (ps : PortState) : (s.withPort p ps).intEnable = s.intEnable := by cases p <;> rfl
@[simp] theorem withPort_dmg (s : State) (p : Port) (ps : PortState) : (s.withPort p ps).dmg = s.dmg := by cases p <;> rfl
@[simp] theorem withPort_ovl (s : State) (p : Port) (ps : PortState) : (s.withPort p ps).ovl = s.ovl := by cases p <;> rfl
@[simp] theorem withPort_wram (s : State) (p : Port) (ps : PortState) : (s.withPort p ps).wram = s.wram := by cases p <;> rfl
@[simp] theorem withPort_echo (s : State) (p : Port) (ps : PortState) : (s.withPort p ps).echo = s.echo := by cases p <;> rfl
@[simp] theorem withPort_scr (s : State) (p : Port) (ps : PortState) : (s.withPort p ps).scr = s.scr := by cases p <;> rfl
@[simp] theorem withPort_zp (s : State) (p : Port) (ps : PortState) : (s.withPort p ps).zp = s.zp := by cases p <;> rfl
@[simp] theorem withPort_reg (s : State) (p : Port) (ps : PortState) : (s.withPort p ps).reg = s.reg := by cases p <;> rfl
@[simp] theorem withPort_cart (s : State) (p : Port) (ps : PortState) : (s.withPort p ps).cart = s.cart := by cases p <;> rfl
@[simp] theorem withPort_log (s : State) (p : Port) (ps : PortState) : (s.withPort p ps).log = s.log := by cases p <;> rfl
@[simp] theorem withPort_responses (s : State) (p : Port) (ps : PortState) : (s.withPort p ps).responses = s.responses := by cases p <;> rfl
@[simp] theorem withPort_calls (s : State) (p : Port) (ps : PortState) : (s.withPort p ps).calls = s.calls := by cases p <;> rfl
@[simp] theorem withPort_sched (s : State) (p : Port) (ps : PortState) : (s.withPort p ps).sched = s.sched := by cases p <;> rfl
@[simp] theorem withPort_turns (s : State) (p : Port) (ps : PortState) : (s.withPort p ps).turns = s.turns := by cases p <;> rfl
@[simp] theorem withPort_issuer (s : State) (p : Port) (ps : PortState) : (s.withPort p ps).issuer = s.issuer := by cases p <;> rfl
@[simp] theorem withPort_answers (s : State) (p : Port) (ps : PortState) : (s.withPort p ps).answers = s.answers := by cases p <;> rfl
@[simp] theorem withPort_draws (s : State) (p : Port) (ps : PortState) : (s.withPort p ps).draws = s.draws := by cases p <;> rfl
@[simp] theorem withPort_port_same (s : State) (p : Port) (ps : PortState) : (s.withPort p ps).port p = ps := by cases p <;> rfl
theorem withPort_port (s : State) (p q : Port) (ps : PortState) :
    (s.withPort p ps).port q = if q = p then ps else s.port q := by cases p <;> cases q <;> rfl
@[simp] theorem withPort_store (s : State) (p : Port) (ps : PortState) (x : Store) : (s.withPort p ps).store x = s.store x := by cases p <;> cases x <;> rfl
@[simp] theorem withPort_byteAt (s : State) (p : Port) (ps : PortState) (x : Store) (i : Nat) : (s.withPort p ps).byteAt x i = s.byteAt x i := by simp [State.byteAt]
@[simp] theorem withPort_binding (s : State) (p : Port) (ps : PortState) (a : Addr) : (s.withPort p ps).binding a = s.binding a := by cases p <;> rfl

/-! ### `State.takeTurn` -/

@[simp] theorem takeTurn_bootMode (s : State) (p : Port) : (s.takeTurn p).bootMode = s.bootMode := by unfold State.takeTurn; split <;> rfl
@[simp] theorem takeTurn_intFlag (s : State) (p : Port) : (s.takeTurn p).intFlag = s.intFlag := by unfold State.takeTurn; split <;> rfl
@[simp] theorem takeTurn_intEnable (s : State) (p : Port) : (s.takeTurn p).intEnable = s.intEnable := by unfold State.takeTurn; split <;> rfl
@[simp] theorem takeTurn_dmg (s : State) (p : Port) : (s.takeTurn p).dmg = s.dmg := by unfold State.takeTurn; split <;> rfl
@[simp] theorem takeTurn_ovl (s : State) (p : Port) : (s.takeTurn p).ovl = s.ovl := by unfold State.takeTurn; split <;> rfl
@[simp] theorem takeTurn_wram (s : State) (p : Port) : (s.takeTurn p).wram = s.wram := by unfold State.takeTurn; split <;> rfl
@[simp] theorem takeTurn_echo (s : State) (p : Port) : (s.takeTurn p).echo = s.echo := by unfold State.takeTurn; split <;> rfl
@[simp] theorem takeTurn_scr (s : State) (p : Port) : (s.takeTurn p).scr = s.scr := by unfold State.takeTurn; split <;> rfl
@[simp] theorem takeTurn_zp (s : State) (p : Port) : (s.takeTurn p).zp = s.zp := by unfold State.takeTurn; split <;> rfl
@[simp] theorem takeTurn_reg (s : State) (p : Port) : (s.takeTurn p).reg = s.reg := by unfold State.takeTurn; split <;> rfl
@[simp] theorem takeTurn_cart (s : State) (p : Port) : (s.takeTurn p).cart = s.cart := by unfold State.takeTurn; split <;> rfl
@[simp] theorem takeTurn_log (s : State) (p : Port) : (s.takeTurn p).log = s.log := by unfold State.takeTurn; split <;> rfl
@[simp] theorem takeTurn_bus (s : State) (p : Port) : (s.takeTurn p).bus = s.bus := by unfold State.takeTurn; split <;> rfl
@[simp] theorem takeTurn_irq (s : State) (p : Port) : (s.takeTurn p).irq = s.irq := by unfold State.takeTurn; split <;> rfl
@[simp] theorem takeTurn_host (s : State) (p : Port) : (s.takeTurn p).host = s.host := by unfold State.takeTurn; split <;> rfl
@[simp] theorem takeTurn_responses (s : State) (p : Port) : (s.takeTurn p).responses = s.responses := by unfold State.takeTurn; split <;> rfl
@[simp] theorem takeTurn_calls (s : State) (p : Port) : (s.takeTurn p).calls = s.calls := by unfold State.takeTurn; split <;> rfl
@[simp] theorem takeTurn_issuer (s : State) (p : Port) : (s.takeTurn p).issuer = p := by unfold State.takeTurn; split <;> rfl
@[simp] theorem takeTurn_answers (s : State) (p : Port) : (s.takeTurn p).answers = s.answers := by unfold State.takeTurn; split <;> rfl
@[simp] theorem takeTurn_draws (s : State) (p : Port) : (s.takeTurn p).draws = s.draws := by unfold State.takeTurn; split <;> rfl
@[simp] theorem takeTurn_sched (s : State) (p : Port) : (s.takeTurn p).sched = s.sched.tail := by unfold State.takeTurn; split <;> simp [*]
theorem takeTurn_turns (s : State) (p : Port) :
    (s.takeTurn p).turns = if s.sched = [] then s.turns + 1 else s.turns := by unfold State.takeTurn; split <;> simp [*]
@[simp] theorem takeTurn_store (s : State) (p : Port) (x : Store) : (s.takeTurn p).store x = s.store x := by cases x <;> simp [State.store]
@[simp] theorem takeTurn_byteAt (s : State) (p : Port) (x : Store) (i : Nat) : (s.takeTurn p).byteAt x i = s.byteAt x i := by simp [State.byteAt]
@[simp] theorem takeTurn_port (s : State) (p q : Port) : (s.takeTurn p).port q = s.port q := by cases q <;> simp [State.port]
@[simp] theorem takeTurn_binding (s : State) (p : Port) (a : Addr) : (s.takeTurn p).binding a = s.binding a := by simp [State.binding]

/-! ### `State.useAnswer` -/

@[simp] theorem useAnswer_bootMode (s : State) : s.useAnswer.bootMode = s.bootMode := by unfold State.useAnswer; split <;> rfl
@[simp] theorem useAnswer_intFlag (s : State) : s.useAnswer.intFlag = s.intFlag := by unfold State.useAnswer; split <;> rfl
@[simp] theorem useAnswer_intEnable (s : State) : s.useAnswer.intEnable = s.intEnable := by unfold State.useAnswer; split <;> rfl
@[simp] theorem useAnswer_dmg (s : State) : s.useAnswer.dmg = s.dmg := by unfold State.useAnswer; split <;> rfl
@[simp] theorem useAnswer_ovl (s : State) : s.useAnswer.ovl = s.ovl := by unfold State.useAnswer; split <;> rfl
@[simp] theorem useAnswer_wram (s : State) : s.useAnswer.wram = s.wram := by unfold State.useAnswer; split <;> rfl
@[simp] theorem useAnswer_echo (s : State) : s.useAnswer.echo = s.echo := by unfold State.useAnswer; split <;> rfl
@[simp] theorem useAnswer_scr (s : State) : s.useAnswer.scr = s.scr := by unfold State.useAnswer; split <;> rfl
@[simp] theorem useAnswer_zp (s : State) : s.useAnswer.zp = s.zp := by unfold State.useAnswer; split <;> rfl
@[simp] theorem useAnswer_reg (s : State) : s.useAnswer.reg = s.reg := by unfold State.useAnswer; split <;> rfl
@[simp] theorem useAnswer_cart (s : State) : s.useAnswer.cart = s.cart := by unfold State.useAnswer; split <;> rfl
@[simp] theorem useAnswer_log (s : State) : s.useAnswer.log = s.log := by unfold State.useAnswer; split <;> rfl
@[simp] theorem useAnswer_bus (s : State) : s.useAnswer.bus = s.bus := by unfold State.useAnswer; split <;> rfl
@[simp] theorem useAnswer_irq (s : State) : s.useAnswer.irq = s.irq := by unfold State.useAnswer; split <;> rfl
@[simp] theorem useAnswer_host (s : State) : s.useAnswer.host = s.host := by unfold State.useAnswer; split <;> rfl
@[simp] theorem useAnswer_responses (s : State) : s.useAnswer.responses = s.responses := by unfold State.useAnswer; split <;> rfl
@[simp] theorem useAnswer_calls (s : State) : s.useAnswer.calls = s.calls := by unfold State.useAnswer; split <;> rfl
@[simp] theorem useAnswer_sched (s : State) : s.useAnswer.sched = s.sched := by unfold State.useAnswer; split <;> rfl
@[simp] theorem useAnswer_turns (s : State) : s.useAnswer.turns = s.turns := by unfold State.useAnswer; split <;> rfl
@[simp] theorem useAnswer_issuer (s : State) : s.useAnswer.issuer = s.issuer := by unfold State.useAnswer; split <;> rfl
@[simp] theorem useAnswer_answers (s : State) : s.useAnswer.answers = s.answers.tail := by unfold State.useAnswer; split <;> simp [*]
theorem useAnswer_draws (s : State) :
    s.useAnswer.draws = if s.answers = [] then s.draws + 1 else s.draws := by unfold State.useAnswer; split <;> simp [*]
@[simp] theorem useAnswer_store (s : State) (x : Store) : s.useAnswer.store x = s.store x := by cases x <;> simp [State.store]
@[simp] theorem useAnswer_byteAt (s : State) (x : Store) (i : Nat) : s.useAnswer.byteAt x i = s.byteAt x i := by simp [State.byteAt]
@[simp] theorem useAnswer_port (s : State) (q : Port) : s.useAnswer.port q = s.port q := by cases q <;> simp [State.port]
@[simp] theorem useAnswer_binding (s : State) (a : Addr) : s.useAnswer.binding a = s.binding a := by simp [State.binding]

end Sys2Proof.Machine
end

