-- ==== Sys2Proof/Laws/Ops.lean ====
section
/-! SUPPORT. One lemma for each shared operation that says what it can do: byte stores, byte reads and
byte writes, and the invariants they keep. -/

-- one proof at a time: many small proofs side by side would start a thread each
set_option Elab.async false

namespace Sys2Proof.Machine

open Sys2Proof

/-! ### Bytes of the stores -/

/-- A store write is seen at its own byte and nowhere else. -/
theorem byteAt_setByte (s : State) (st x : Store) (i j : Nat) (v : Byte) :
    (s.setByte st i v).byteAt x j = if x = st ∧ j = i then v else s.byteAt x j := by
  unfold State.byteAt
  rw [setByte_store]
  by_cases h : x = st
  · subst h
    by_cases hj : j = i <;> simp [Memory.read_write, hj]
  · simp [h]

/-- Bytes outside the stored cells stay. -/
theorem byteAt_setCells_of_not_mem (s : State) (v : Byte) {l : List (Store × Nat)} {st : Store} {i : Nat}
    (h : (st, i) ∉ l) : (s.setCells v l).byteAt st i = s.byteAt st i := by
  induction l generalizing s with
  | nil => rfl
  | cons c rest ih =>
    obtain ⟨st', i'⟩ := c
    simp only [List.mem_cons, Prod.mk.injEq, not_or] at h
    rw [State.setCells, ih _ h.2, byteAt_setByte, if_neg h.1]

/-- Every stored cell holds the byte. -/
theorem byteAt_setCells_of_mem (s : State) (v : Byte) {l : List (Store × Nat)} {st : Store} {i : Nat}
    (h : (st, i) ∈ l) : (s.setCells v l).byteAt st i = v := by
  induction l generalizing s with
  | nil => simp at h
  | cons c rest ih =>
    obtain ⟨st', i'⟩ := c
    rw [State.setCells]
    by_cases hr : (st, i) ∈ rest
    · exact ih _ hr
    · rcases List.mem_cons.1 h with h | h
      · obtain ⟨rfl, rfl⟩ := Prod.mk.inj h
        rw [byteAt_setCells_of_not_mem _ _ hr, byteAt_setByte, if_pos ⟨rfl, rfl⟩]
      · exact absurd h hr

/-- A run of bytes is stored from its first index on, and nowhere else. -/
theorem byteAt_setBytes (s : State) (st x : Store) (i j : Nat) (l : List Byte) :
    (s.setBytes st i l).byteAt x j =
      if x = st ∧ i ≤ j ∧ j < i + l.length then l.getD (j - i) 0 else s.byteAt x j := by
  induction l generalizing s i with
  | nil => simp [State.setBytes]
  | cons v rest ih =>
    rw [State.setBytes, ih, byteAt_setByte]
    by_cases hx : x = st
    · subst hx
      by_cases hj : j = i
      · subst hj; simp
      · by_cases h1 : i + 1 ≤ j ∧ j < i + 1 + rest.length
        · have h2 : i ≤ j ∧ j < i + (rest.length + 1) := by omega
          have h3 : j - i = (j - (i + 1)) + 1 := by omega
          simp [h1, h2, h3]
        · have h2 : ¬ (i ≤ j ∧ j < i + (rest.length + 1)) := by omega
          rw [if_neg (fun h => h1 h.2), if_neg (fun h => hj h.2), if_neg (fun h => h2 h.2)]
    · simp [hx]

/-! ### A byte read changes no router state (40_bus_access.md R112) -/

@[simp] theorem afterRead_bootMode (s : State) (a : Addr) : (s.afterRead a).bootMode = s.bootMode := by unfold State.afterRead; split <;> simp
@[simp] theorem afterRead_intFlag (s : State) (a : Addr) : (s.afterRead a).intFlag = s.intFlag := by unfold State.afterRead; split <;> simp
@[simp] theorem afterRead_intEnable (s : State) (a : Addr) : (s.afterRead a).intEnable = s.intEnable := by unfold State.afterRead; split <;> simp
@[simp] theorem afterRead_dmg (s : State) (a : Addr) : (s.afterRead a).dmg = s.dmg := by unfold State.afterRead; split <;> simp
@[simp] theorem afterRead_ovl (s : State) (a : Addr) : (s.afterRead a).ovl = s.ovl := by unfold State.afterRead; split <;> simp
@[simp] theorem afterRead_wram (s : State) (a : Addr) : (s.afterRead a).wram = s.wram := by unfold State.afterRead; split <;> simp
@[simp] theorem afterRead_echo (s : State) (a : Addr) : (s.afterRead a).echo = s.echo := by unfold State.afterRead; split <;> simp
@[simp] theorem afterRead_scr (s : State) (a : Addr) : (s.afterRead a).scr = s.scr := by unfold State.afterRead; split <;> simp
@[simp] theorem afterRead_zp (s : State) (a : Addr) : (s.afterRead a).zp = s.zp := by unfold State.afterRead; split <;> simp
@[simp] theorem afterRead_reg (s : State) (a : Addr) : (s.afterRead a).reg = s.reg := by unfold State.afterRead; split <;> simp
@[simp] theorem afterRead_cart (s : State) (a : Addr) : (s.afterRead a).cart = s.cart := by unfold State.afterRead; split <;> simp
@[simp] theorem afterRead_bus (s : State) (a : Addr) : (s.afterRead a).bus = s.bus := by unfold State.afterRead; split <;> simp
@[simp] theorem afterRead_irq (s : State) (a : Addr) : (s.afterRead a).irq = s.irq := by unfold State.afterRead; split <;> simp
@[simp] theorem afterRead_host (s : State) (a : Addr) : (s.afterRead a).host = s.host := by unfold State.afterRead; split <;> simp
@[simp] theorem afterRead_responses (s : State) (a : Addr) : (s.afterRead a).responses = s.responses := by unfold State.afterRead; split <;> simp
@[simp] theorem afterRead_sched (s : State) (a : Addr) : (s.afterRead a).sched = s.sched := by unfold State.afterRead; split <;> simp
@[simp] theorem afterRead_turns (s : State) (a : Addr) : (s.afterRead a).turns = s.turns := by unfold State.afterRead; split <;> simp
@[simp] theorem afterRead_issuer (s : State) (a : Addr) : (s.afterRead a).issuer = s.issuer := by unfold State.afterRead; split <;> simp
@[simp] theorem afterRead_store (s : State) (a : Addr) (x : Store) : (s.afterRead a).store x = s.store x := by unfold State.afterRead; split <;> simp
@[simp] theorem afterRead_byteAt (s : State) (a : Addr) (x : Store) (i : Nat) : (s.afterRead a).byteAt x i = s.byteAt x i := by simp [State.byteAt]
@[simp] theorem afterRead_port (s : State) (a : Addr) (p : Port) : (s.afterRead a).port p = s.port p := by cases p <;> simp [State.port]
@[simp] theorem afterRead_binding (s : State) (a x : Addr) : (s.afterRead a).binding x = s.binding x := by simp [State.binding]

/-- A byte read puts out at most one event (60_exceptions.md R168). -/
theorem afterRead_log (s : State) (a : Addr) :
    (s.afterRead a).log = if s.readTarget a = .unmapped then s.log ++ [.unmappedRead a] else s.log := by
  unfold State.afterRead
  split <;> simp [*]

/-! ### A byte write changes the cells or the register its target names -/

@[simp] theorem writeByte_bootMode (s : State) (a : Addr) (v : Byte) : (s.writeByte a v).bootMode = s.bootMode := by unfold State.writeByte; split <;> simp
@[simp] theorem writeByte_reg (s : State) (a : Addr) (v : Byte) : (s.writeByte a v).reg = s.reg := by unfold State.writeByte; split <;> simp
@[simp] theorem writeByte_cart (s : State) (a : Addr) (v : Byte) : (s.writeByte a v).cart = s.cart := by unfold State.writeByte; split <;> simp
@[simp] theorem writeByte_bus (s : State) (a : Addr) (v : Byte) : (s.writeByte a v).bus = s.bus := by unfold State.writeByte; split <;> simp
@[simp] theorem writeByte_irq (s : State) (a : Addr) (v : Byte) : (s.writeByte a v).irq = s.irq := by unfold State.writeByte; split <;> simp
@[simp] theorem writeByte_host (s : State) (a : Addr) (v : Byte) : (s.writeByte a v).host = s.host := by unfold State.writeByte; split <;> simp
@[simp] theorem writeByte_responses (s : State) (a : Addr) (v : Byte) : (s.writeByte a v).responses = s.responses := by unfold State.writeByte; split <;> simp
@[simp] theorem writeByte_sched (s : State) (a : Addr) (v : Byte) : (s.writeByte a v).sched = s.sched := by unfold State.writeByte; split <;> simp
@[simp] theorem writeByte_turns (s : State) (a : Addr) (v : Byte) : (s.writeByte a v).turns = s.turns := by unfold State.writeByte; split <;> simp
@[simp] theorem writeByte_issuer (s : State) (a : Addr) (v : Byte) : (s.writeByte a v).issuer = s.issuer := by unfold State.writeByte; split <;> simp
@[simp] theorem writeByte_answers (s : State) (a : Addr) (v : Byte) : (s.writeByte a v).answers = s.answers := by unfold State.writeByte; split <;> simp
@[simp] theorem writeByte_draws (s : State) (a : Addr) (v : Byte) : (s.writeByte a v).draws = s.draws := by unfold State.writeByte; split <;> simp
@[simp] theorem writeByte_port (s : State) (a : Addr) (v : Byte) (p : Port) : (s.writeByte a v).port p = s.port p := by cases p <;> simp [State.port]
@[simp] theorem writeByte_binding (s : State) (a x : Addr) (v : Byte) : (s.writeByte a v).binding x = s.binding x := by simp [State.binding]

theorem writeByte_intFlag (s : State) (a : Addr) (v : Byte) :
    (s.writeByte a v).intFlag = if s.writeTarget a = .intFlag then v else s.intFlag := by
  unfold State.writeByte
  split <;> simp [*]

theorem writeByte_intEnable (s : State) (a : Addr) (v : Byte) :
    (s.writeByte a v).intEnable = if s.writeTarget a = .intEnable then v else s.intEnable := by
  unfold State.writeByte
  split <;> simp [*]

theorem writeByte_dmg (s : State) (a : Addr) (v : Byte) :
    (s.writeByte a v).dmg = if s.writeTarget a = .dmg then v else s.dmg := by
  unfold State.writeByte
  split <;> simp [*]

/-- A byte write puts out at most one event (60_exceptions.md R168). -/
theorem writeByte_log (s : State) (a : Addr) (v : Byte) :
    (s.writeByte a v).log = if s.writeTarget a = .unmapped then s.log ++ [.unmappedWrite a v] else s.log := by
  unfold State.writeByte
  split <;> simp [*]

/-- A byte write acts on the stores as storing its target's cells. -/
theorem writeByte_store (s : State) (a : Addr) (v : Byte) (x : Store) :
    (s.writeByte a v).store x = (s.setCells v (targetCells (s.writeTarget a))).store x := by
  unfold State.writeByte
  split <;> simp [*, targetCells, State.setCells]

theorem byteAt_writeByte_of_not_mem (s : State) (a : Addr) (v : Byte) {st : Store} {i : Nat}
    (h : (st, i) ∉ targetCells (s.writeTarget a)) : (s.writeByte a v).byteAt st i = s.byteAt st i := by
  have hk := byteAt_setCells_of_not_mem s v h
  unfold State.byteAt at hk ⊢
  rw [writeByte_store]
  exact hk

theorem byteAt_writeByte_of_mem (s : State) (a : Addr) (v : Byte) {st : Store} {i : Nat}
    (h : (st, i) ∈ targetCells (s.writeTarget a)) : (s.writeByte a v).byteAt st i = v := by
  have hk := byteAt_setCells_of_mem s v h
  unfold State.byteAt at hk ⊢
  rw [writeByte_store]
  exact hk

/-! ### The resolution table stays inside the stores (10_state.md R41, 20_memory.md R83) -/

theorem writeRows_cells_bounds {cart : Option CartId} {n : Nat} {st : Store} {i : Nat}
    (h : (st, i) ∈ targetCells (writeRows cart n)) : i < storeSize st := by
  unfold writeRows cartTarget at h
  split_ifs at h <;> (try (cases cart <;> simp [targetCells] at h <;> done)) <;>
    simp [targetCells] at h
  · rcases h with ⟨hs, hi⟩ | ⟨hs, hi⟩
    · rw [hs]; show i < 8192; omega
    · rw [hs]; show i < 7680; omega
  · obtain ⟨hs, hi⟩ := h; rw [hs]; show i < 8192; omega
  · obtain ⟨hs, hi⟩ := h; rw [hs]; show i < 52; omega
  · obtain ⟨hs, hi⟩ := h; rw [hs]; show i < 128; omega

theorem writeTarget_cells_bounds {s : State} {a : Addr} {st : Store} {i : Nat}
    (h : (st, i) ∈ targetCells (s.writeTarget a)) : i < storeSize st := by
  unfold State.writeTarget at h
  split at h
  · simp [targetCells] at h
  · exact writeRows_cells_bounds h

theorem readRows_cell_bounds {boot : Bool} {cart : Option CartId} {n : Nat} {st : Store} {i : Nat}
    (h : readRows boot cart n = .cell st i) : i < storeSize st := by
  unfold readRows cartTarget at h
  split_ifs at h <;> (try (cases cart <;> simp at h <;> done)) <;> simp at h
  · obtain ⟨hs, hi⟩ := h; rw [← hs]; show i < 256; omega
  · obtain ⟨hs, hi⟩ := h; rw [← hs]; show i < 8192; omega
  · obtain ⟨hs, hi⟩ := h; rw [← hs]; show i < 7680; omega
  · obtain ⟨hs, hi⟩ := h; rw [← hs]; show i < 52; omega
  · obtain ⟨hs, hi⟩ := h; rw [← hs]; show i < 128; omega

/-! ### The canonical form -/

/-- The canonical form is about the stores and the registry alone. -/
theorem State.Canonical.of_same {s t : State} (h : s.Canonical) (hs : ∀ st, t.store st = s.store st)
    (hr : t.reg = s.reg) : t.Canonical where
  stores st := hs st ▸ h.stores st
  bounds st := hs st ▸ h.bounds st
  registry := hr ▸ h.registry

theorem State.Canonical.setByte {s : State} (h : s.Canonical) {st : Store} {i : Nat} (hi : i < storeSize st)
    (v : Byte) : (s.setByte st i v).Canonical where
  stores x := by
    rw [setByte_store]
    split
    · exact Memory.write_wf (h.stores st) i v
    · exact h.stores x
  bounds x := by
    rw [setByte_store]
    split
    · rename_i hx
      exact hx ▸ Memory.write_bounds (h.bounds st) hi v
    · exact h.bounds x
  registry := by simpa using h.registry

theorem State.Canonical.setCells {s : State} (h : s.Canonical) (v : Byte) {l : List (Store × Nat)}
    (hl : ∀ c ∈ l, c.2 < storeSize c.1) : (s.setCells v l).Canonical := by
  induction l generalizing s with
  | nil => exact h
  | cons c rest ih =>
    exact ih (h.setByte (hl c List.mem_cons_self) v) (fun d hd => hl d (List.mem_cons_of_mem _ hd))

theorem State.Canonical.setBytes {s : State} (h : s.Canonical) (st : Store) (i : Nat) {l : List Byte}
    (hl : i + l.length ≤ storeSize st) : (s.setBytes st i l).Canonical := by
  induction l generalizing s i with
  | nil => exact h
  | cons v rest ih =>
    simp only [List.length_cons] at hl
    exact ih (h.setByte (by omega) v) (i + 1) (by omega)

theorem State.Canonical.writeByte {s : State} (h : s.Canonical) (a : Addr) (v : Byte) :
    (s.writeByte a v).Canonical :=
  (h.setCells v (fun _ hc => writeTarget_cells_bounds (a := a) hc)).of_same (fun st => writeByte_store s a v st) (by simp)

theorem State.Canonical.bind {s : State} (h : s.Canonical) (d : DeviceId) (start stop : Addr) :
    (s.withReg (s.reg.bind d start.toNat stop.toNat)).Canonical where
  stores st := by simpa using h.stores st
  bounds st := by simpa using h.bounds st
  registry := Registry.bind_wf h.registry d _ _ stop.isLt

end Sys2Proof.Machine
end

