-- ==== Sys2Proof/Laws/Step.lean ====
section
/-! SUPPORT. What executing one command can do, what a step can do, and the frames of word accesses. -/

-- one proof at a time: many small proofs side by side would start a thread each
set_option Elab.async false

namespace Sys2Proof.Machine

open Sys2Proof

/-! ### The second half of a word access -/

@[simp] theorem finishHalf_bootMode (s : State) (h : Half) : (s.finishHalf h).bootMode = s.bootMode := by cases h <;> simp [State.finishHalf]
@[simp] theorem finishHalf_reg (s : State) (h : Half) : (s.finishHalf h).reg = s.reg := by cases h <;> simp [State.finishHalf]
@[simp] theorem finishHalf_cart (s : State) (h : Half) : (s.finishHalf h).cart = s.cart := by cases h <;> simp [State.finishHalf]
@[simp] theorem finishHalf_bus (s : State) (h : Half) : (s.finishHalf h).bus = s.bus := by cases h <;> simp [State.finishHalf]
@[simp] theorem finishHalf_irq (s : State) (h : Half) : (s.finishHalf h).irq = s.irq := by cases h <;> simp [State.finishHalf]
@[simp] theorem finishHalf_host (s : State) (h : Half) : (s.finishHalf h).host = s.host := by cases h <;> simp [State.finishHalf]
@[simp] theorem finishHalf_sched (s : State) (h : Half) : (s.finishHalf h).sched = s.sched := by cases h <;> simp [State.finishHalf]
@[simp] theorem finishHalf_turns (s : State) (h : Half) : (s.finishHalf h).turns = s.turns := by cases h <;> simp [State.finishHalf]
@[simp] theorem finishHalf_issuer (s : State) (h : Half) : (s.finishHalf h).issuer = s.issuer := by cases h <;> simp [State.finishHalf]
@[simp] theorem finishHalf_port (s : State) (h : Half) (p : Port) : (s.finishHalf h).port p = s.port p := by cases p <;> simp [State.port]

@[simp] theorem holdHalf_bootMode (s : State) (h : Half) : (s.holdHalf h).bootMode = s.bootMode := by simp [State.holdHalf]
@[simp] theorem holdHalf_intFlag (s : State) (h : Half) : (s.holdHalf h).intFlag = s.intFlag := by simp [State.holdHalf]
@[simp] theorem holdHalf_intEnable (s : State) (h : Half) : (s.holdHalf h).intEnable = s.intEnable := by simp [State.holdHalf]
@[simp] theorem holdHalf_dmg (s : State) (h : Half) : (s.holdHalf h).dmg = s.dmg := by simp [State.holdHalf]
@[simp] theorem holdHalf_ovl (s : State) (h : Half) : (s.holdHalf h).ovl = s.ovl := by simp [State.holdHalf]
@[simp] theorem holdHalf_wram (s : State) (h : Half) : (s.holdHalf h).wram = s.wram := by simp [State.holdHalf]
@[simp] theorem holdHalf_echo (s : State) (h : Half) : (s.holdHalf h).echo = s.echo := by simp [State.holdHalf]
@[simp] theorem holdHalf_scr (s : State) (h : Half) : (s.holdHalf h).scr = s.scr := by simp [State.holdHalf]
@[simp] theorem holdHalf_zp (s : State) (h : Half) : (s.holdHalf h).zp = s.zp := by simp [State.holdHalf]
@[simp] theorem holdHalf_reg (s : State) (h : Half) : (s.holdHalf h).reg = s.reg := by simp [State.holdHalf]
@[simp] theorem holdHalf_cart (s : State) (h : Half) : (s.holdHalf h).cart = s.cart := by simp [State.holdHalf]
@[simp] theorem holdHalf_log (s : State) (h : Half) : (s.holdHalf h).log = s.log := by simp [State.holdHalf]
@[simp] theorem holdHalf_responses (s : State) (h : Half) : (s.holdHalf h).responses = s.responses := by simp [State.holdHalf]
@[simp] theorem holdHalf_calls (s : State) (h : Half) : (s.holdHalf h).calls = s.calls := by simp [State.holdHalf]
@[simp] theorem holdHalf_sched (s : State) (h : Half) : (s.holdHalf h).sched = s.sched := by simp [State.holdHalf]
@[simp] theorem holdHalf_turns (s : State) (h : Half) : (s.holdHalf h).turns = s.turns := by simp [State.holdHalf]
@[simp] theorem holdHalf_issuer (s : State) (h : Half) : (s.holdHalf h).issuer = s.issuer := by simp [State.holdHalf]
@[simp] theorem holdHalf_answers (s : State) (h : Half) : (s.holdHalf h).answers = s.answers := by simp [State.holdHalf]
@[simp] theorem holdHalf_draws (s : State) (h : Half) : (s.holdHalf h).draws = s.draws := by simp [State.holdHalf]
@[simp] theorem holdHalf_store (s : State) (h : Half) (x : Store) : (s.holdHalf h).store x = s.store x := by simp [State.holdHalf]
@[simp] theorem holdHalf_byteAt (s : State) (h : Half) (x : Store) (i : Nat) : (s.holdHalf h).byteAt x i = s.byteAt x i := by simp [State.holdHalf]

@[simp] theorem continueWord_bootMode (s : State) (h : Half) : (s.continueWord h).bootMode = s.bootMode := by unfold State.continueWord; split <;> simp
@[simp] theorem continueWord_reg (s : State) (h : Half) : (s.continueWord h).reg = s.reg := by unfold State.continueWord; split <;> simp
@[simp] theorem continueWord_cart (s : State) (h : Half) : (s.continueWord h).cart = s.cart := by unfold State.continueWord; split <;> simp
theorem continueWord_sched (s : State) (h : Half) : (s.continueWord h).sched = if s.torn then s.sched else s.sched.tail := by unfold State.continueWord; split <;> simp
theorem continueWord_turns (s : State) (h : Half) : (s.continueWord h).turns = if s.torn then s.turns else (s.takeTurn s.issuer).turns := by unfold State.continueWord; split <;> simp
@[simp] theorem continueWord_issuer (s : State) (h : Half) : (s.continueWord h).issuer = s.issuer := by unfold State.continueWord; split <;> simp

/-! ### The merge -/

/-- The merge picks a port that is ready. -/
theorem mem_of_choose {s : State} {ready : List Port} {p : Port} (h : s.choose ready = some p) : p ∈ ready := by
  unfold State.choose at h
  split at h
  · cases h
  · cases h; exact List.mem_cons_self
  · split at h
    · rename_i hc
      cases h; simpa using hc
    · cases h; exact List.mem_cons_self

/-- The merge picks the port it names, if that is ready. -/
theorem choose_of_named {s : State} {ready : List Port} (h : s.nextTurn ∈ ready) :
    s.choose ready = some s.nextTurn := by
  unfold State.choose
  split
  · cases h
  · simp_all
  · rw [if_pos (by simpa using h)]

/-- If any port is ready, one is picked. -/
theorem choose_isSome {s : State} {ready : List Port} (h : ready ≠ []) : (s.choose ready).isSome = true := by
  unfold State.choose
  split
  · exact absurd rfl h
  · rfl
  · split <;> rfl

/-- Only the port named next counts in the merge's pick. -/
theorem choose_of_nextTurn {s t : State} (h : t.nextTurn = s.nextTurn) : t.choose = s.choose := by
  funext ready
  simp only [State.choose, h]

theorem mem_waitingPorts (s : State) (p : Port) : p ∈ s.waitingPorts ↔ s.waiting p = true := by
  cases p <;> simp [State.waitingPorts]

theorem mem_readyPorts (s : State) (p : Port) : p ∈ s.readyPorts ↔ p = s.issuer ∨ s.waiting p = true := by
  cases p <;> simp [State.readyPorts]

@[simp] theorem nextTurn_cons {s : State} {p : Port} {rest : List Port} (h : s.sched = p :: rest) : s.nextTurn = p := by
  simp [State.nextTurn, h]

/-- The port named next moves, if it has something to do. -/
theorem grant_of_named {s : State} (h : s.waiting s.nextTurn = true) : s.grant = some s.nextTurn :=
  choose_of_named ((mem_waitingPorts s _).2 h)

/-- Named next, the issuer goes on with its word access. -/
theorem torn_of_issuer_named {s : State} (h : s.nextTurn = s.issuer) : s.torn = false := by
  unfold State.torn
  rw [choose_of_named ((mem_readyPorts s _).2 (.inl h)), h]
  simp

/-- Named next, another port that has something to do comes between the halves. -/
theorem torn_of_other_named {s : State} (h : s.nextTurn ≠ s.issuer) (hw : s.waiting s.nextTurn = true) :
    s.torn = true := by
  unfold State.torn
  rw [choose_of_named ((mem_readyPorts s _).2 (.inr hw))]
  simpa using h

/-- With its half held, the issuer is granted exactly when nothing comes between. -/
theorem holdHalf_grant (s : State) (h : Half) : (s.holdHalf h).grant = s.choose s.readyPorts := by
  have hw : (s.holdHalf h).waitingPorts = s.readyPorts := by
    refine List.filter_congr (fun p _ => ?_)
    unfold State.waiting State.holdHalf
    cases hi : s.issuer <;> cases p <;> simp [State.port, State.withPort]
  have hn : (s.holdHalf h).nextTurn = s.nextTurn := by simp [State.nextTurn]
  unfold State.grant
  rw [hw, choose_of_nextTurn hn]

/-! ### Whether a word access is torn depends on the ports and the merge alone -/

theorem waiting_of_port {s t : State} (h : ∀ p, t.port p = s.port p) (p : Port) : t.waiting p = s.waiting p := by
  simp [State.waiting, h]

theorem torn_of_same {s t : State} (hp : ∀ p, t.port p = s.port p) (hi : t.issuer = s.issuer)
    (hs : t.sched = s.sched) (ht : t.turns = s.turns) : t.torn = s.torn := by
  have hw : t.waiting = s.waiting := funext (waiting_of_port hp)
  have hn : t.nextTurn = s.nextTurn := by simp only [State.nextTurn, hs, ht]
  simp only [State.torn, State.readyPorts, choose_of_nextTurn hn, hw, hi]

@[simp] theorem afterRead_torn (s : State) (a : Addr) : (s.afterRead a).torn = s.torn :=
  torn_of_same (by simp) (by simp) (by simp) (by simp)

@[simp] theorem writeByte_torn (s : State) (a : Addr) (v : Byte) : (s.writeByte a v).torn = s.torn :=
  torn_of_same (by simp) (by simp) (by simp) (by simp)

/-! ### One command -/

@[simp] theorem exec_rb (a : Addr) (s : State) :
    exec (.rb a) s = .next ((s.afterRead a).respond (zext16 (s.readValue a)) statusOk) := rfl

@[simp] theorem exec_wb (a : Addr) (v : Byte) (s : State) :
    exec (.wb a v) s = .next ((s.writeByte a v).respond 0x0000 statusOk) := rfl

@[simp] theorem exec_rw (a : Addr) (s : State) :
    exec (.rw a) s = .next ((s.afterRead a).continueWord (.readHigh (s.readValue a) (nextAddr a))) := rfl

@[simp] theorem exec_ww (a : Addr) (w : Word) (s : State) :
    exec (.ww a w) s = .next ((s.writeByte a (loByte w)).continueWord (.writeHigh (hiByte w) (nextAddr a))) := rfl

@[simp] theorem exec_connect (d : DeviceId) (start stop : Addr) (s : State) :
    exec (.connect d start stop) s =
      .next ((s.withReg (s.reg.bind d start.toNat stop.toNat)).respond 0x0000 statusOk) := rfl

theorem exec_loadovl (data : List Byte) (s : State) :
    exec (.loadovl data) s =
      if 256 < data.length then .next (s.respond 0x0000 statusOverlayTooLarge)
      else .next ((s.setBytes .ovl 0 data).respond 0x0000 statusOk) := rfl

@[simp] theorem exec_loadcart (c : CartId) (s : State) :
    exec (.loadcart c) s =
      .next (((s.withCart (some c)).emit (.cartLoaded (Config.cartDesc c))).respond 0x0000 statusOk) := rfl

@[simp] theorem exec_setboot (enabled : Bool) (s : State) :
    exec (.setboot enabled) s = .next ((s.withBootMode enabled).respond 0x0000 statusOk) := rfl

theorem exec_irq (kind : BitVec 4) (s : State) :
    exec (.irq kind) s =
      if kind = vblankKind then .next ((s.withIntFlag vblankFlags).respond 0x0000 statusOk)
      else .next ((s.emit (.unknownIrqKind kind)).respond 0x0000 statusOk) := rfl

@[simp] theorem exec_reset (s : State) :
    exec .reset s = .next (((s.withBootMode true).withIntFlag 0x00).respond 0x0000 statusOk) := rfl

@[simp] theorem exec_dump (s : State) :
    exec .dump s = .next ((s.emitAll (dumpEvents s.reg)).respond 0x0000 statusOk) := rfl

/-! ### One step -/

/-- Everything a step that goes on can have done: nothing, finishing a word access, or executing the
granted port's next command. -/
theorem step_next_cases {s t : State} (h : step s = .next t) :
    (s.grant = none ∧ t = s) ∨
    (∃ p hf, s.grant = some p ∧ (s.port p).half = some hf ∧
      t = ((s.takeTurn p).withPort p ⟨(s.port p).queue, none⟩).finishHalf hf) ∨
    (∃ p, s.grant = some p ∧ (s.port p).half = none ∧ (s.port p).queue = [] ∧ t = s.takeTurn p) ∨
    (∃ p c rest i, s.grant = some p ∧ (s.port p).half = none ∧ (s.port p).queue = c :: rest ∧
      decode c = .ok i ∧ exec i ((s.takeTurn p).withPort p ⟨rest, none⟩) = .next t) := by
  unfold step at h
  cases hg : s.grant with
  | none => simp only [hg, Host.Outcome.next.injEq] at h; exact .inl ⟨rfl, h.symm⟩
  | some p =>
    simp only [hg, takeTurn_port] at h
    cases hh : (s.port p).half with
    | some hf =>
      simp only [hh, Host.Outcome.next.injEq] at h
      exact .inr (.inl ⟨p, hf, rfl, hh, h.symm⟩)
    | none =>
      cases hq : (s.port p).queue with
      | nil =>
        simp only [hh, hq, Host.Outcome.next.injEq] at h
        exact .inr (.inr (.inl ⟨p, rfl, hh, hq, h.symm⟩))
      | cons c rest =>
        simp only [hh, hq] at h
        cases hd : decode c with
        | ok i =>
          simp only [hd] at h
          exact .inr (.inr (.inr ⟨p, c, rest, i, rfl, hh, hq, hd, h⟩))
        | error why => simp [hd] at h

/-- A run goes on from a step's next state. -/
theorem run_succ_of_step {M : Host.Core} {s u : M.State} (h : M.step s = .next u) (k : Nat) :
    M.run (k + 1) s = M.run k u := by
  simp only [Host.Core.run, h]

/-- States that step alike run alike. -/
theorem run_succ_of_step_eq {M : Host.Core} {s u : M.State} (h : M.step s = M.step u) (k : Nat) :
    M.run (k + 1) s = M.run (k + 1) u := by
  simp only [Host.Core.run, h]

end Sys2Proof.Machine
end

