-- ==== Sys2Proof/Laws/Targets.lean ====
section
/-! SUPPORT. The resolution table row by row (20_memory.md R53, R66, R67): what a bus address with no
binding resolves to in each direction. -/

namespace Sys2Proof.Machine

open Sys2Proof

theorem readTarget_of_binding {s : State} {a : Addr} {d : DeviceId} (h : s.binding a = some d) :
    s.readTarget a = .periph d := by simp [State.readTarget, h]

theorem writeTarget_of_binding {s : State} {a : Addr} {d : DeviceId} (h : s.binding a = some d) :
    s.writeTarget a = .periph d := by simp [State.writeTarget, h]

theorem readTarget_of_unbound {s : State} {a : Addr} (h : s.binding a = none) :
    s.readTarget a = readRows s.bootMode s.cart a.toNat := by simp [State.readTarget, h]

theorem writeTarget_of_unbound {s : State} {a : Addr} (h : s.binding a = none) :
    s.writeTarget a = writeRows s.cart a.toNat := by simp [State.writeTarget, h]

section Rows

variable {boot : Bool} {cart : Option CartId} {n : Nat}

theorem readRows_overlay (h : n ≤ 0x00FF) : readRows true cart n = .cell .ovl n := by
  simp [readRows, h]

theorem readRows_rom (h : n ≤ 0x7FFF) (hb : ¬ (n ≤ 0x00FF ∧ boot = true)) :
    readRows boot cart n = cartTarget cart := by
  simp only [readRows, hb, h, if_false, if_true]

theorem readRows_cartRam (h1 : 0xA000 ≤ n) (h2 : n ≤ 0xBFFF) : readRows boot cart n = cartTarget cart := by
  unfold readRows
  split_ifs <;> first | omega | rfl

theorem readRows_wram (h1 : 0xC000 ≤ n) (h2 : n ≤ 0xDFFF) : readRows boot cart n = .cell .wram (n - 0xC000) := by
  unfold readRows
  split_ifs <;> first | omega | rfl

theorem readRows_echo (h1 : 0xE000 ≤ n) (h2 : n ≤ 0xFDFF) : readRows boot cart n = .cell .echo (n - 0xE000) := by
  unfold readRows
  split_ifs <;> first | omega | rfl

theorem readRows_scr (h1 : 0xFF4C ≤ n) (h2 : n ≤ 0xFF7F) (h3 : n ≠ 0xFF50) :
    readRows boot cart n = .cell .scr (n - 0xFF4C) := by
  unfold readRows
  split_ifs <;> first | omega | rfl

theorem readRows_zp (h1 : 0xFF80 ≤ n) (h2 : n ≤ 0xFFFE) : readRows boot cart n = .cell .zp (n - 0xFF80) := by
  unfold readRows
  split_ifs <;> first | omega | rfl

theorem readRows_unmapped (h : (0x8000 ≤ n ∧ n ≤ 0x9FFF) ∨ (0xFE00 ≤ n ∧ n ≤ 0xFF0E) ∨ (0xFF10 ≤ n ∧ n ≤ 0xFF4B)) :
    readRows boot cart n = .unmapped := by
  unfold readRows
  split_ifs <;> first | omega | rfl

theorem writeRows_rom (h : n ≤ 0x7FFF) : writeRows cart n = cartTarget cart := by
  simp only [writeRows, h, if_true]

theorem writeRows_cartRam (h1 : 0xA000 ≤ n) (h2 : n ≤ 0xBFFF) : writeRows cart n = cartTarget cart := by
  unfold writeRows
  split_ifs <;> first | omega | rfl

theorem writeRows_mirrored (h1 : 0xC000 ≤ n) (h2 : n ≤ 0xDDFF) : writeRows cart n = .mirrored (n - 0xC000) := by
  unfold writeRows
  split_ifs <;> first | omega | rfl

theorem writeRows_wram (h1 : 0xDE00 ≤ n) (h2 : n ≤ 0xDFFF) : writeRows cart n = .cell .wram (n - 0xC000) := by
  unfold writeRows
  split_ifs <;> first | omega | rfl

theorem writeRows_scr (h1 : 0xFF4C ≤ n) (h2 : n ≤ 0xFF7F) (h3 : n ≠ 0xFF50) :
    writeRows cart n = .cell .scr (n - 0xFF4C) := by
  unfold writeRows
  split_ifs <;> first | omega | rfl

theorem writeRows_zp (h1 : 0xFF80 ≤ n) (h2 : n ≤ 0xFFFE) : writeRows cart n = .cell .zp (n - 0xFF80) := by
  unfold writeRows
  split_ifs <;> first | omega | rfl

theorem writeRows_unmapped (h : (0x8000 ≤ n ∧ n ≤ 0x9FFF) ∨ (0xE000 ≤ n ∧ n ≤ 0xFDFF) ∨
    (0xFE00 ≤ n ∧ n ≤ 0xFF0E) ∨ (0xFF10 ≤ n ∧ n ≤ 0xFF4B)) : writeRows cart n = .unmapped := by
  unfold writeRows
  split_ifs <;> first | omega | rfl

/-- A byte write of the table stores nothing, or one cell, or a mirrored pair; echo is stored to only
through the mirror, and the overlay never. -/
theorem writeRows_cells_cases (cart : Option CartId) (n : Nat) :
    targetCells (writeRows cart n) = [] ∨
    (0xC000 ≤ n ∧ n ≤ 0xDDFF ∧ writeRows cart n = .mirrored (n - 0xC000)) ∨
    (0xDE00 ≤ n ∧ n ≤ 0xDFFF ∧ writeRows cart n = .cell .wram (n - 0xC000)) ∨
    (0xFF4C ≤ n ∧ n ≤ 0xFF7F ∧ n ≠ 0xFF50 ∧ writeRows cart n = .cell .scr (n - 0xFF4C)) ∨
    (0xFF80 ≤ n ∧ n ≤ 0xFFFE ∧ writeRows cart n = .cell .zp (n - 0xFF80)) := by
  by_cases h1 : 0xC000 ≤ n ∧ n ≤ 0xDDFF
  · exact .inr (.inl ⟨h1.1, h1.2, writeRows_mirrored h1.1 h1.2⟩)
  by_cases h2 : 0xDE00 ≤ n ∧ n ≤ 0xDFFF
  · exact .inr (.inr (.inl ⟨h2.1, h2.2, writeRows_wram h2.1 h2.2⟩))
  by_cases h3 : 0xFF4C ≤ n ∧ n ≤ 0xFF7F ∧ n ≠ 0xFF50
  · exact .inr (.inr (.inr (.inl ⟨h3.1, h3.2.1, h3.2.2, writeRows_scr h3.1 h3.2.1 h3.2.2⟩)))
  by_cases h4 : 0xFF80 ≤ n ∧ n ≤ 0xFFFE
  · exact .inr (.inr (.inr (.inr ⟨h4.1, h4.2, writeRows_zp h4.1 h4.2⟩)))
  left
  unfold writeRows cartTarget
  split_ifs <;> first | omega | rfl | (cases cart <;> rfl)

end Rows

end Sys2Proof.Machine
end

