-- ==== Sys2Proof/Tests/Slice0.lean ====
section
/-! SUPPORT. Tests and witnesses. Expected results come from the spec: 30_encoding.md R104 and the
vectors of 95_test_vectors.md, whose ids stand beside them. The fixture is 95's S0 where no byte left
to PowerOnFill is read. -/

namespace Sys2Proof.Tests

open Sys2Proof Sys2Proof.Machine

/-! ### Decoding: words written out from the spec -/

/-- V50, V52, V54, V55: op, then sub, then four digits of a, then four of b. -/
theorem test_decode_bus :
    decode ⟨0x00C1230000, .absent⟩ = .ok (.rb 0xC123) ∧ decode ⟨0x10C123005A, .absent⟩ = .ok (.wb 0xC123 0x5A) ∧
    decode ⟨0x20FFFF0000, .absent⟩ = .ok (.rw 0xFFFF) ∧ decode ⟨0x30DDFFBEEF, .absent⟩ = .ok (.ww 0xDDFF 0xBEEF) ∧
    decode ⟨0x3000000000, .absent⟩ = .ok (.ww 0x0000 0x0000) := by decide

/-- V57, V60, V64, V65 and R104. -/
theorem test_decode_control :
    decode ⟨0x40FF40FF45, .device firstDevice⟩ = .ok (.connect firstDevice 0xFF40 0xFF45) ∧
    decode ⟨0x5000000000, .bytes [1, 2, 3]⟩ = .ok (.loadovl [1, 2, 3]) ∧
    decode ⟨0x6000000000, .cart firstCart⟩ = .ok (.loadcart firstCart) ∧
    decode ⟨0x7000000000, .absent⟩ = .ok (.setboot false) ∧ decode ⟨0x7100000000, .absent⟩ = .ok (.setboot true) ∧
    decode ⟨0x9000000000, .absent⟩ = .ok .reset ∧ decode ⟨0xA000000000, .absent⟩ = .ok .dump := by decide

/-- V62: a kind other than 0 is a legal command. -/
theorem test_decode_irq :
    decode ⟨0x8000000000, .absent⟩ = .ok (.irq 0) ∧ decode ⟨0x8F00000000, .absent⟩ = .ok (.irq 15) := by decide

/-- V51, V53, V56, V59, V61, V63: a must-be-zero bit is set. -/
theorem test_decode_must_be_zero :
    decode ⟨0x00C1230001, .absent⟩ = .error .mustBeZero ∧ decode ⟨0x10C123015A, .absent⟩ = .error .mustBeZero ∧
    decode ⟨0x31C0000000, .absent⟩ = .error .mustBeZero ∧ decode ⟨0x5000000001, .bytes []⟩ = .error .mustBeZero ∧
    decode ⟨0x7200000000, .absent⟩ = .error .mustBeZero ∧ decode ⟨0x8000000001, .absent⟩ = .error .mustBeZero := by decide

/-- V66, V58, R97: no such opcode, and payloads missing or of the wrong kind. -/
theorem test_decode_refused :
    decode ⟨0xB000000000, .absent⟩ = .error .noSuchOpcode ∧ decode ⟨0xFFFFFFFFFF, .absent⟩ = .error .noSuchOpcode ∧
    decode ⟨0x4000000000, .absent⟩ = .error .badPayload ∧ decode ⟨0x4000000000, .cart firstCart⟩ = .error .badPayload ∧
    decode ⟨0x9000000000, .device firstDevice⟩ = .error .badPayload := by decide

/-- R104, the other way: encoding gives the words of the table. -/
theorem test_encode :
    encode (.wb 0xC123 0x5A) = ⟨0x10C123005A, .absent⟩ ∧ encode (.connect firstDevice 0xFF40 0xFF45) = ⟨0x40FF40FF45, .device firstDevice⟩ ∧
    encode (.setboot true) = ⟨0x7100000000, .absent⟩ ∧ encode (.irq 2) = ⟨0x8200000000, .absent⟩ := by decide

/-- A word of the table given alone has the payload of zeros. -/
theorem test_decodeTableWord :
    decodeTableWord 40 0x4000000000 = some (.connect firstDevice 0 0) ∧ decodeTableWord 40 0x5000000000 = some (.loadovl []) ∧
    decodeTableWord 40 0x30DDFFBEEF = some (.ww 0xDDFF 0xBEEF) ∧ decodeTableWord 40 0xB000000000 = none := by decide

/-! ### WellFormed: each check refuses an ill-formed command -/

theorem test_wellFormed_accepts :
    (⟨0x10C123005A, .absent⟩ : Command).wellFormed = true ∧ (⟨0x8F00000000, .absent⟩ : Command).wellFormed = true ∧
    CmdWord.wellFormed 0x7100000000 = true := by decide

theorem test_wellFormed_refuses_opcode :
    (⟨0xB000000000, .absent⟩ : Command).wellFormed = false ∧ CmdWord.wellFormed 0xB000000000 = false := by decide

theorem test_wellFormed_refuses_must_be_zero :
    (⟨0x10C123015A, .absent⟩ : Command).wellFormed = false ∧ CmdWord.wellFormed 0x7200000000 = false := by decide

theorem test_wellFormed_refuses_payload :
    (⟨0x4000000000, .absent⟩ : Command).wellFormed = false ∧ (⟨0x5000000000, .cart firstCart⟩ : Command).wellFormed = false ∧
    (⟨0xA000000000, .bytes []⟩ : Command).wellFormed = false := by decide

/-! ### One step of each command -/

/-- The registers of fixture S0; bytes no test reads are left to PowerOnFill. -/
def s0 : State := { State.reset with intEnable := 0x00, dmg := 0x00 }

/-- The state after one command, if the step goes on. -/
def after (i : Instr) (s : State) : State :=
  match step { s with bus := ⟨[encode i], none⟩ } with
  | .next t => t
  | _ => s

/-- V16: after construction IF reads 0x00. -/
theorem test_rb_intFlag : (after (.rb 0xFF0F) s0).responses = [⟨.bus, 0x0000, 0x00⟩] := by decide

/-- 95 section 2.1, address 0xFE00. -/
theorem test_rb_unmapped :
    (after (.rb 0xFE00) s0).responses = [⟨.bus, 0x0000, 0x00⟩] ∧ (after (.rb 0xFE00) s0).log = [.unmappedRead 0xFE00] := by decide

/-- P1 row 1. -/
theorem test_wb_mirror :
    (after (.wb 0xC123 0x5A) s0).byteAt .wram 0x123 = 0x5A ∧ (after (.wb 0xC123 0x5A) s0).byteAt .echo 0x123 = 0x5A := by decide

/-- V4: in boot mode a write to 0x0050 goes to the cartridge, never to the overlay. -/
theorem test_wb_boot_range :
    (after (.wb 0x0050 0x01) { s0 with cart := some firstCart }).calls = [.cartWrite firstCart 0x0050 0x01] ∧
    (after (.wb 0x0050 0x01) { s0 with cart := some firstCart }).ovl = [] := by decide

/-- R115's example. -/
theorem test_rw_straddle :
    (after (.rw 0xFFFE) { s0 with zp := [(0x7E, 0x34)], intEnable := 0x12 }).responses = [⟨.bus, 0x1234, 0x00⟩] := by decide

/-- V10: the high byte of a word at 0xFFFF is the overlay's byte 0. -/
theorem test_rw_wrap :
    (after (.rw 0xFFFF) { s0 with ovl := [(0, 0xAB)], intEnable := 0x12 }).responses = [⟨.bus, 0xAB12, 0x00⟩] := by decide

/-- V13. -/
theorem test_ww_scratch_dmg :
    (after (.ww 0xFF4F 0xA1B2) s0).byteAt .scr 3 = 0xB2 ∧ (after (.ww 0xFF4F 0xA1B2) s0).dmg = 0xA1 := by decide

/-- V8's write: the low byte is mirrored, the high byte is not. -/
theorem test_ww_mirror_edge :
    (after (.ww 0xDDFF 0xBEEF) s0).wram = [(0x1DFF, 0xEF), (0x1E00, 0xBE)] ∧
    (after (.ww 0xDDFF 0xBEEF) s0).echo = [(0x1DFF, 0xEF)] := by decide +kernel

/-- V22's registry: the later binding wins where the two overlap. -/
theorem test_connect_overlap (p q : DeviceId) :
    ∃ t, execConnect q 0xFF48 0xFF49 { s0 with reg := [(0xFF47, p), (0xFF48, p), (0xFF4A, p)] } = .next t ∧
      t.reg = [(0xFF47, p), (0xFF48, q), (0xFF49, q), (0xFF4A, p)] :=
  ⟨_, rfl, rfl⟩

/-- V23: start > end binds nothing. -/
theorem test_connect_empty :
    (after (.connect firstDevice 0x0010 0x0000) { s0 with reg := [(5, firstDevice)] }).reg = [(5, firstDevice)] := by decide

/-- V33: a short image keeps the tail. -/
theorem test_loadovl_short :
    (after (.loadovl [0x01, 0x02]) { s0 with ovl := [(1, 0x55), (2, 0x66)] }).ovl = [(0, 0x01), (1, 0x02), (2, 0x66)] := by decide

/-- V31: an image of 257 bytes is rejected whole. -/
theorem test_loadovl_too_large :
    (match execLoadovl (List.replicate 257 0xEE) { s0 with ovl := [(0, 0x55)] } with
      | .next t => (t.ovl, t.responses)
      | _ => ([], [])) = ([(0, 0x55)], [⟨.bus, 0x0000, 0x01⟩]) := by decide +kernel

/-- V36: a second LOADCART replaces the first binding and is recorded. -/
theorem test_loadcart (k k2 : CartId) :
    ∃ t, execLoadcart k2 { s0 with cart := some k } = .next t ∧ t.cart = some k2 ∧
      t.log = [.cartLoaded (Config.cartDesc k2)] := ⟨_, rfl, rfl, rfl⟩

/-- V38. -/
theorem test_setboot : (after (.setboot false) s0).bootMode = false ∧ (after (.setboot true) s0).bootMode = true := by decide

/-- V41: the other bits are cleared. -/
theorem test_irq_vblank : (after (.irq 0) { s0 with intFlag := 0x1E }).intFlag = 0x01 := by decide

/-- V43. -/
theorem test_irq_unknown :
    (after (.irq 2) { s0 with intFlag := 0x04 }).intFlag = 0x04 ∧
    (after (.irq 2) { s0 with intFlag := 0x04 }).log = [.unknownIrqKind 2] := by decide

/-- V39: RESET keeps IE, RAM and bindings. -/
theorem test_reset :
    let t := after .reset { s0 with bootMode := false, intFlag := 0x1F, intEnable := 0x1F, wram := [(0, 0x12)], reg := [(0xFF40, firstDevice)] }
    t.bootMode = true ∧ t.intFlag = 0x00 ∧ t.intEnable = 0x1F ∧ t.wram = [(0, 0x12)] ∧ t.reg = [(0xFF40, firstDevice)] := by decide

/-- X8's order: one entry per bound address, ascending. -/
theorem test_dump (p q : DeviceId) :
    (after .dump { s0 with reg := [(0xC000, q), (0xFF40, p)] }).log =
      [.dumpEntry 0xC000 (Config.devName q), .dumpEntry 0xFF40 (Config.devName p)] := rfl

/-- The assembler: R100 and R101, with a comment, a pseudo-command and an operand out of range. -/
theorem test_assemble :
    assemble ⟨[("p", firstDevice)], [("k", firstCart)]⟩
      "connect p, 0xFF40, 0xFF45 ; wiring\nloadcart k\nloadovl [1, 0x2]\nbind p, 16\nvblank" =
      some [⟨0x40FF40FF45, .device firstDevice⟩, ⟨0x6000000000, .cart firstCart⟩, ⟨0x5000000000, .bytes [1, 2]⟩,
        ⟨0x4000100010, .device firstDevice⟩, ⟨0x8000000000, .absent⟩] ∧
    assemble ⟨[], []⟩ "wb 0xC123, 0x100" = none := by decide

/-! ### Witnesses: a state and operands that meet each statement's hypotheses

`witness_<Statement>`; where a statement has several clauses, one conjunct for each, at the ends of its
range. -/

/-- A cartridge is bound, boot mode is off and two collaborator answers are laid down. -/
def carted : State := { s0 with bootMode := false, cart := some firstCart, answers := [0xF5, 0x5A] }

/-- A device is bound at 0xC000. -/
def wired : State := { s0 with reg := [(0xC000, firstDevice)] }

/-- The bus port waits with a work-RAM write; both stores hold a mirrored byte. -/
def busy : State :=
  { s0 with wram := [(1, 0x22)], echo := [(1, 0x22)], bus := ⟨[encode (.wb 0xC000 0x42)], none⟩ }

/-- The bus port executes, and the merge names the interrupt port next, where a command waits. -/
def contended : State := { s0 with irq := ⟨[encode (.irq 0)], none⟩, sched := [.irq] }

theorem busy_canonical : busy.Canonical where
  stores st := by cases st <;> decide
  bounds st := by cases st <;> decide
  registry := by decide

theorem witness_StepKeepsStoresAndRegistryCanonical : busy.Canonical ∧ ∃ t, step busy = .next t :=
  ⟨busy_canonical, _, rfl⟩

theorem witness_StepKeepsEchoTheMirrorOfWorkRam : busy.EchoMirrorsWorkRam ∧ ∃ t, step busy = .next t :=
  ⟨fun _ _ => rfl, _, rfl⟩

theorem witness_EncodeOfDecodeIsTheWord : decode ⟨0x71_0000_0000, .absent⟩ = .ok (.setboot true) := by decide

theorem witness_OperandsAreNeverTruncated :
    operand 16 (.word "0xFFFF".toList) = some 0xFFFF ∧
    numberOf (.word "0x10000".toList) = some 65536 ∧ 2 ^ 16 ≤ 65536 := by decide

theorem witness_StepExecutesTheGrantedCommand :
    busy.grant = some .bus ∧ (busy.port .bus).half = none ∧ (busy.port .bus).queue = [encode (.wb 0xC000 0x42)] ∧
    decode (encode (.wb 0xC000 0x42)) = .ok (.wb 0xC000 0x42) := by decide

theorem witness_StepFinishesAHeldWordAccess :
    let r : State := { s0 with bus := ⟨[], some (.readHigh 0x12 0xC001)⟩ }
    let w : State := { s0 with host := ⟨[], some (.writeHigh 0x12 0x0000)⟩ }
    (r.grant = some .bus ∧ (r.port .bus).half = some (.readHigh 0x12 0xC001)) ∧
    (w.grant = some .host ∧ (w.port .host).half = some (.writeHigh 0x12 0x0000)) := by decide

theorem witness_AnyWaitingPortMayMoveNext :
    let s : State := { contended with bus := ⟨[encode .dump], none⟩ }
    s.waiting .bus = true ∧ s.waiting .irq = true ∧ s.nextTurn = .irq := by decide

/-- A word read and a read of IF wait at the bus port, a vertical-blank request at the interrupt port. -/
def crowded : State :=
  { s0 with
    wram := [(0, 0x11), (1, 0x22)]
    bus := ⟨[encode (.rw 0xC000), encode (.rb 0xFF0F)], none⟩
    irq := ⟨[encode (.irq 0)], none⟩ }

/-- What a state that may be has returned, and whether any word access in it is unfinished. -/
def outcome : Option State → List Response × Bool
  | some t => (t.responses, t.bus.half.isSome || t.irq.half.isSome || t.host.half.isSome)
  | none => ([], true)

/-- The word read whole, then the request, then the other read: IF then reads 0x01. -/
theorem witness_EveryMergeOfTransactionsIsARun :
    outcome (State.merge { crowded with sched := [.bus, .bus, .irq, .bus] ++ [] } [.bus, .bus, .irq, .bus]) =
      ([⟨.bus, 0x2211, 0x00⟩, ⟨.irq, 0x0000, 0x00⟩, ⟨.bus, 0x0001, 0x00⟩], false) := by decide

/-- The same merge as a run of the machine: three steps (R103, R72). -/
theorem test_merge_word_whole :
    (match Sys2Proof.core.run 3 { crowded with sched := [.bus, .bus, .irq, .bus] } with
      | .next t => State.responses t
      | _ => []) = [⟨.bus, 0x2211, 0x00⟩, ⟨.irq, 0x0000, 0x00⟩, ⟨.bus, 0x0001, 0x00⟩] := by decide

theorem witness_WordAccessInOneStepIsTwoTurns :
    let s : State := { crowded with sched := [.bus] }
    s.torn = false ∧ (s.port s.issuer).half = none := by decide

theorem witness_IdleStepChangesNothing : s0.waiting .bus = false ∧ s0.waiting .irq = false ∧ s0.waiting .host = false := by
  decide

theorem witness_PlacedWordIsExecutedNext : decodeTableWord 40 0x8200000000 = some (.irq 2) := by decide

theorem witness_IllegalCommandIsRefused :
    let s : State := { s0 with host := ⟨[⟨0xB000000000, .absent⟩], none⟩ }
    s.grant = some .host ∧ (s.port .host).half = none ∧ (s.port .host).queue = [⟨0xB000000000, .absent⟩] ∧
    (⟨0xB000000000, .absent⟩ : Command).wellFormed = false := by decide

theorem witness_LegalCommandsNeverStopTheBlock : busy.CommandsLegal := by
  intro p; cases p <;> decide

theorem witness_BindingTakesPrecedenceOverEveryRegion :
    wired.binding 0xC000 = some firstDevice ∧ wired.answers = [] ∧
    (let s : State := { wired with reg := [(0, firstDevice), (65535, firstDevice)], answers := [0x77] }
     s.binding 0x0000 = some firstDevice ∧ s.binding 0xFFFF = some firstDevice ∧ s.answers = [0x77]) := by decide

theorem witness_CartridgeWindowsGoToTheCartridge :
    carted.binding 0x0000 = none ∧ carted.cart = some firstCart ∧ carted.answers = [0xF5, 0x5A] ∧
    ¬ ((0x0000#16).toNat ≤ 0x00FF ∧ carted.bootMode = true) ∧ (0x7FFF#16).toNat ≤ 0x7FFF ∧
    (0xA000 ≤ (0xBFFF#16).toNat ∧ (0xBFFF#16).toNat ≤ 0xBFFF) ∧
    (let s : State := { carted with bootMode := true, answers := [] }
     s.binding 0x0100 = none ∧ s.cart = some firstCart ∧ s.answers = [] ∧ ¬ ((0x0100#16).toNat ≤ 0x00FF ∧ s.bootMode = true)) := by decide

theorem witness_CartridgeWindowsWithoutCartridgeAreUnmapped :
    s0.binding 0x0100 = none ∧ s0.cart = none ∧ (0x0100#16).toNat ≤ 0x7FFF ∧
    ¬ ((0x0100#16).toNat ≤ 0x00FF ∧ s0.bootMode = true) ∧
    (s0.binding 0xA000 = none ∧ 0xA000 ≤ (0xA000#16).toNat ∧ (0xA000#16).toNat ≤ 0xBFFF) := by decide

theorem witness_OverlayIsReadInBootModeAndNeverWritten :
    (s0.binding 0x00FF = none ∧ (0x00FF#16).toNat ≤ 0x00FF ∧ s0.bootMode = true) ∧
    (carted.binding 0x00FF = none ∧ carted.cart = some firstCart ∧ (0x00FF#16).toNat ≤ 0x3FFF ∧ carted.bootMode = false) ∧
    (let s : State := { carted with bootMode := true }
     s.binding 0x0100 = none ∧ s.binding 0x00FF = none ∧ s.cart = some firstCart ∧ (0x0100#16).toNat ≤ 0x3FFF ∧
     0x0100 ≤ (0x0100#16).toNat ∧ (0x00FF#16).toNat ≤ 0x00FF) := by decide

theorem witness_WorkRamReadsBackWhatWasWritten :
    (s0.binding 0xC000 = none ∧ 0xC000 ≤ (0xC000#16).toNat ∧ (0xC000#16).toNat ≤ 0xDFFF) ∧
    (s0.binding 0xDFFF = none ∧ 0xC000 ≤ (0xDFFF#16).toNat ∧ (0xDFFF#16).toNat ≤ 0xDFFF) := by decide

theorem witness_WorkRamWritesAreMirroredIntoEcho :
    (s0.binding 0xDDFF = none ∧ 0xC000 ≤ (0xDDFF#16).toNat ∧ (0xDDFF#16).toNat ≤ 0xDDFF) ∧
    (s0.binding 0xDE00 = none ∧ 0xC000 ≤ (0xDE00#16).toNat ∧ (0xDE00#16).toNat ≤ 0xDFFF ∧ ¬ (0xDE00#16).toNat ≤ 0xDDFF) ∧
    wired.binding 0xC000 ≠ none := by decide

theorem witness_EchoWindowIsReadOnly :
    (s0.binding 0xE000 = none ∧ 0xE000 ≤ (0xE000#16).toNat) ∧ (s0.binding 0xFDFF = none ∧ (0xFDFF#16).toNat ≤ 0xFDFF) := by decide

theorem witness_SingleByteRegistersAreReadAndWritten :
    s0.binding 0xFF0F = none ∧ s0.binding 0xFF50 = none ∧ s0.binding 0xFFFF = none := by decide

theorem witness_ReservedScratchIsReadAndWritten :
    (s0.binding 0xFF4F = none ∧ 0xFF4C ≤ (0xFF4F#16).toNat ∧ (0xFF4F#16).toNat ≤ 0xFF7F ∧ 0xFF4F#16 ≠ 0xFF50#16) ∧
    (s0.binding 0xFF51 = none ∧ 0xFF4C ≤ (0xFF51#16).toNat ∧ (0xFF51#16).toNat ≤ 0xFF7F ∧ 0xFF51#16 ≠ 0xFF50#16) ∧
    (s0.binding 0xFF7F = none ∧ (0xFF7F#16).toNat ≤ 0xFF7F) := by decide

theorem witness_ZeroPageRamIsReadAndWritten :
    (s0.binding 0xFF80 = none ∧ 0xFF80 ≤ (0xFF80#16).toNat) ∧ (s0.binding 0xFFFE = none ∧ (0xFFFE#16).toNat ≤ 0xFFFE) := by decide

theorem witness_UnmappedAccessesAnswerZeroAndDropWrites :
    (s0.binding 0x8000 = none ∧ 0x8000 ≤ (0x8000#16).toNat) ∧ (s0.binding 0x9FFF = none ∧ (0x9FFF#16).toNat ≤ 0x9FFF) ∧
    (s0.binding 0xE000 = none ∧ 0xE000 ≤ (0xE000#16).toNat) ∧ (s0.binding 0xFDFF = none ∧ (0xFDFF#16).toNat ≤ 0xFDFF) ∧
    (s0.binding 0xFE00 = none ∧ 0xFE00 ≤ (0xFE00#16).toNat) ∧ (s0.binding 0xFF0E = none ∧ (0xFF0E#16).toNat ≤ 0xFF0E) ∧
    (s0.binding 0xFF10 = none ∧ 0xFF10 ≤ (0xFF10#16).toNat) ∧ (s0.binding 0xFF4B = none ∧ (0xFF4B#16).toNat ≤ 0xFF4B) := by
  and_intros <;> rfl

/-- Every kind of write target is met, so no clause of the frame is empty. -/
theorem witness_ByteWriteFrame :
    carted.writeTarget 0x0000 = .cart firstCart ∧ wired.writeTarget 0xC000 = .periph firstDevice ∧
    s0.writeTarget 0xC001 = .mirrored 1 ∧ s0.writeTarget 0xDFFF = .cell .wram 0x1FFF ∧ s0.writeTarget 0xFF0F = .intFlag ∧
    s0.writeTarget 0xFFFF = .intEnable ∧ s0.writeTarget 0xFF50 = .dmg ∧ s0.writeTarget 0xE000 = .unmapped := by decide

theorem witness_EchoAddressReadsTheMirroredWrite :
    s0.binding 0xDDFF = none ∧ s0.binding (0xDDFF#16 + 0x2000#16) = none ∧ 0xC000 ≤ (0xDDFF#16).toNat ∧
    (0xDDFF#16).toNat ≤ 0xDDFF := by decide

theorem witness_ReadWordReadsLowThenHigh : s0.torn = false := by decide

theorem witness_WriteWordWritesLowThenHigh : { contended with sched := [.bus] }.torn = false := by decide

/-- At 0xFFFF the halves are IE and, in boot mode, the overlay. -/
theorem witness_ReadWordJoinsTheTwoByteReads :
    s0.torn = false ∧ s0.readTarget 0xFFFF = .intEnable ∧ s0.readTarget (0xFFFF#16 + 1#16) = .cell .ovl 0 := by decide

theorem witness_ReadWordAfterWriteWordReturnsTheWord :
    s0.torn = false ∧ (after (.ww 0xFF80 0x1234) s0).torn = false ∧ (s0.binding 0xDFFE = none ∧ s0.binding (0xDFFE#16 + 1#16) = none ∧ (0xDFFE#16).toNat ≤ 0xDFFE) ∧
    (s0.binding 0xFF4E = none ∧ s0.binding (0xFF4E#16 + 1#16) = none ∧ (0xFF4E#16).toNat ≤ 0xFF4E) ∧
    (s0.binding 0xFF51 = none ∧ s0.binding (0xFF51#16 + 1#16) = none ∧ 0xFF51 ≤ (0xFF51#16).toNat) ∧
    (s0.binding 0xFFFD = none ∧ s0.binding (0xFFFD#16 + 1#16) = none ∧ (0xFFFD#16).toNat ≤ 0xFFFD) := by decide

theorem witness_TornWordAccessDoesItsFirstHalfAndWaits : contended.torn = true := by decide

/-- Both clauses of the frame: a torn and an untorn access. -/
theorem witness_WriteWordFrame :
    s0.writeTarget 0xFF4F = .cell .scr 3 ∧ (s0.writeByte 0xFF4F 0xB2).writeTarget (0xFF4F#16 + 1#16) = .dmg ∧
    s0.torn = false ∧ contended.torn = true := by decide

theorem witness_NoCommandRemovesABinding :
    let s : State := { wired with host := ⟨[encode (.connect firstDevice 0xC000 0xC001)], none⟩ }
    s.binding 0xC000 ≠ none ∧ ∃ t, step s = .next t := ⟨by decide, _, rfl⟩

theorem witness_DumpListsEveryBoundAddressInOrder : Registry.wf [(0, firstDevice), (0xFF40, firstDevice), (0xFFFF, firstDevice)] := by decide

theorem witness_ConnectedRangeDelegatesAndIsDumpedOnce :
    s0.reg = [] ∧ 0xFF40 ≤ (0xFF40#16).toNat ∧ (0xFF45#16).toNat ≤ 0xFF45 := by decide

theorem witness_LoadOverlayIsAllOrNothing :
    (List.replicate 256 (0xEE : Byte)).length = 256 ∧ 256 < (List.replicate 257 (0xEE : Byte)).length := by
  constructor <;> rw [List.length_replicate]
  decide

theorem witness_LoadOverlayCopiesFromOffsetZero :
    ([] : List Byte).length ≤ 256 ∧ (List.replicate 256 (0xEE : Byte)).length ≤ 256 :=
  ⟨by decide, by rw [List.length_replicate]⟩

theorem witness_EndingBootModeUncoversTheCartridge :
    let s : State := { carted with bootMode := true }
    s.binding 0x0050 = none ∧ s.cart = some firstCart ∧ s.bootMode = true := by decide

theorem witness_InterruptRequestWritesTheFullByte : (0#4 : BitVec 4) = 0#4 ∧ (15#4 : BitVec 4) ≠ 0#4 := by decide

/-- Each element is in fact written by some command. -/
theorem witness_ElementsAreWrittenOnlyByTheirCommands :
    (after (.setboot false) s0).bootMode ≠ s0.bootMode ∧ (after (.wb 0xFF0F 0x1F) s0).intFlag ≠ s0.intFlag ∧
    (after (.ww 0xFFFE 0x1234) s0).intEnable ≠ s0.intEnable ∧ (after (.ww 0xFF50 0x0001) s0).dmg ≠ s0.dmg ∧
    (after (.loadovl [1]) s0).ovl ≠ s0.ovl ∧ (after (.wb 0xFF80 1) s0).zp ≠ s0.zp ∧
    (after (.connect firstDevice 2 3) s0).reg ≠ s0.reg ∧ (after (.loadcart firstCart) s0).cart ≠ s0.cart := by decide

theorem witness_EveryCommandReturnsOneResponse : s0.torn = false ∧ 256 < (List.replicate 257 (0 : Byte)).length :=
  ⟨by decide, by rw [List.length_replicate]; decide⟩

theorem witness_TheLogIsAppendOnlyAndNeverRead : ∃ t, step busy = .next t := ⟨_, rfl⟩

theorem witness_UnreachableBytesAreNeverObserved :
    let s' : State := { busy with scr := [(4, 0x99)], zp := [(127, 0x99)] }
    s' = { busy with scr := s'.scr, zp := s'.zp } ∧
    (∀ i, i ≠ 4 → Memory.read s'.scr i = Memory.read busy.scr i) ∧
    (∀ i, i ≠ 127 → Memory.read s'.zp i = Memory.read busy.zp i) ∧ ∃ t, step busy = .next t := by
  refine ⟨rfl, ?_, ?_, _, rfl⟩ <;> intro i hi
  · show (if 4 = i then some (0x99 : Byte) else none) = none
    rw [if_neg (Ne.symm hi)]
  · show (if 127 = i then some (0x99 : Byte) else none) = none
    rw [if_neg (Ne.symm hi)]

theorem witness_InterruptEnableIsNotInterpreted :
    (∀ a, Instr.rw 0xFFFD#16 = .rw a → a ≠ 0xFFFF#16 ∧ a + 1#16 ≠ 0xFFFF#16) ∧
    (∀ a, Instr.rb 0xFFFE#16 = .rb a → a ≠ 0xFFFF#16) := by
  refine ⟨?_, ?_⟩ <;> intro a h <;> cases h <;> decide

end Sys2Proof.Tests
end

section
/-! SUPPORT. What a command and a step can do, as relations that the model's functions are equal to:
each way a command or a step can go is one named case, for proofs about every step to split on. -/

namespace Sys2Proof.Machine

open Sys2Proof

/-- Executing a command in `s`: the command and the state it leads to (40_bus_access.md, 41_control.md,
42_interrupt_request.md). -/
inductive Executes (s : State) : Instr → State → Prop
  | rb (a : Addr) : Executes s (.rb a) ((s.afterRead a).respond (zext16 (s.readValue a)) statusOk)
  | wb (a : Addr) (v : Byte) : Executes s (.wb a v) ((s.writeByte a v).respond 0x0000 statusOk)
  | rw (a : Addr) :
      Executes s (.rw a) ((s.afterRead a).continueWord (.readHigh (s.readValue a) (nextAddr a)))
  | ww (a : Addr) (w : Word) :
      Executes s (.ww a w) ((s.writeByte a (loByte w)).continueWord (.writeHigh (hiByte w) (nextAddr a)))
  | connect (d : DeviceId) (start stop : Addr) :
      Executes s (.connect d start stop)
        ((s.withReg (s.reg.bind d start.toNat stop.toNat)).respond 0x0000 statusOk)
  | overlayTooLarge {data : List Byte} (h : 256 < data.length) :
      Executes s (.loadovl data) (s.respond 0x0000 statusOverlayTooLarge)
  | overlayLoaded {data : List Byte} (h : data.length ≤ 256) :
      Executes s (.loadovl data) ((s.setBytes .ovl 0 data).respond 0x0000 statusOk)
  | loadcart (c : CartId) :
      Executes s (.loadcart c)
        (((s.withCart (some c)).emit (.cartLoaded (Config.cartDesc c))).respond 0x0000 statusOk)
  | setboot (enabled : Bool) :
      Executes s (.setboot enabled) ((s.withBootMode enabled).respond 0x0000 statusOk)
  | vblank : Executes s (.irq vblankKind) ((s.withIntFlag vblankFlags).respond 0x0000 statusOk)
  | unknownIrq {kind : BitVec 4} (h : kind ≠ vblankKind) :
      Executes s (.irq kind) ((s.emit (.unknownIrqKind kind)).respond 0x0000 statusOk)
  | reset : Executes s .reset (((s.withBootMode true).withIntFlag 0x00).respond 0x0000 statusOk)
  | dump : Executes s .dump ((s.emitAll (dumpEvents s.reg)).respond 0x0000 statusOk)

theorem executes_of_exec {i : Instr} {s t : State} (h : exec i s = .next t) : Executes s i t := by
  cases i with
  | loadovl data =>
    rw [exec_loadovl] at h
    split at h <;> cases h
    · exact .overlayTooLarge ‹_›
    · exact .overlayLoaded (Nat.le_of_not_lt ‹_›)
  | irq kind =>
    rw [exec_irq] at h
    split at h <;> cases h
    · subst kind; exact .vblank
    · exact .unknownIrq ‹_›
  | _ => cases h; constructor

theorem exec_of_executes {i : Instr} {s t : State} (h : Executes s i t) : exec i s = .next t := by
  cases h with
  | overlayTooLarge h => rw [exec_loadovl, if_pos h]
  | overlayLoaded h => rw [exec_loadovl, if_neg (Nat.not_lt_of_le h)]
  | unknownIrq h => rw [exec_irq, if_neg h]
  | _ => rfl

/-- `exec` and `Executes` are the same thing said twice. -/
theorem exec_eq_next {i : Instr} {s t : State} : exec i s = .next t ↔ Executes s i t :=
  ⟨executes_of_exec, exec_of_executes⟩

/-- A step of `s` that goes on (30_encoding.md R90, R103): with nothing to do, or at the granted port
finishing the half it holds or executing its oldest command. -/
inductive StepsTo (s : State) : State → Prop
  | idle (hg : s.grant = none) : StepsTo s s
  | half {p : Port} {hf : Half} (hg : s.grant = some p) (hh : (s.port p).half = some hf) :
      StepsTo s (((s.takeTurn p).withPort p ⟨(s.port p).queue, none⟩).finishHalf hf)
  | command {p : Port} {c : Command} {rest : List Command} {i : Instr} {t : State}
      (hg : s.grant = some p) (hh : (s.port p).half = none) (hq : (s.port p).queue = c :: rest)
      (hd : decode c = .ok i) (he : Executes ((s.takeTurn p).withPort p ⟨rest, none⟩) i t) : StepsTo s t

/-- A port without a held half that is granted has a command waiting. -/
theorem queue_ne_nil_of_grant {s : State} {p : Port} (hg : s.grant = some p)
    (hh : (s.port p).half = none) : (s.port p).queue ≠ [] := by
  have hw : s.waiting p = true := (mem_waitingPorts s p).1 (mem_of_choose hg)
  simpa [State.waiting, hh] using hw

theorem stepsTo_of_step {s t : State} (h : step s = .next t) : StepsTo s t := by
  obtain ⟨hg, rfl⟩ | ⟨p, hf, hg, hh, rfl⟩ | ⟨p, hg, hh, hq, -⟩ | ⟨p, c, rest, i, hg, hh, hq, hd, he⟩ :=
    step_next_cases h
  · exact .idle hg
  · exact .half hg hh
  · exact absurd hq (queue_ne_nil_of_grant hg hh)
  · exact .command hg hh hq hd (executes_of_exec he)

theorem step_of_stepsTo {s t : State} (h : StepsTo s t) : step s = .next t := by
  cases h with
  | idle hg => simp [step, hg]
  | half hg hh => simp [step, hg, hh]
  | command hg hh hq hd he => simp [step, hg, hh, hq, hd, exec_of_executes he]

/-- `step` and `StepsTo` are the same thing said twice. -/
theorem step_eq_next {s t : State} : step s = .next t ↔ StepsTo s t :=
  ⟨stepsTo_of_step, step_of_stepsTo⟩

end Sys2Proof.Machine
end

section
/-! PROOFS. The two invariants of the stores and the registry (10_state.md R29, R32, R41), and the
construction state (R38). -/

namespace Sys2Proof.Machine

open Sys2Proof

/-- A predicate on the stores and the registry alone that byte writes, CONNECT and overlay loads keep. -/
structure StoreInvariant (P : State → Prop) : Prop where
  of_same {s t : State} : P s → (∀ st, t.store st = s.store st) → t.reg = s.reg → P t
  writeByte {s : State} (a : Addr) (v : Byte) : P s → P (s.writeByte a v)
  connect {s : State} (d : DeviceId) (start stop : Addr) :
    P s → P (s.withReg (s.reg.bind d start.toNat stop.toNat))
  loadOverlay {s : State} {data : List Byte} : data.length ≤ 256 → P s → P (s.setBytes .ovl 0 data)

section

variable {P : State → Prop} (inv : StoreInvariant P)

include inv

theorem StoreInvariant.finishHalf {s : State} (hs : P s) (hf : Half) : P (s.finishHalf hf) := by
  cases hf with
  | readHigh lo a => exact inv.of_same hs (by simp [State.finishHalf]) (by simp)
  | writeHigh hi a => exact inv.of_same (inv.writeByte a hi hs) (by simp [State.finishHalf]) (by simp)

theorem StoreInvariant.continueWord {s : State} (hs : P s) (hf : Half) : P (s.continueWord hf) := by
  unfold State.continueWord
  split
  · exact inv.of_same hs (by simp) (by simp)
  · exact inv.finishHalf (inv.of_same hs (by simp) (by simp)) hf

theorem StoreInvariant.executes {s t : State} {i : Instr} (hs : P s) (h : Executes s i t) : P t := by
  cases h with
  | wb a v => exact inv.of_same (inv.writeByte a v hs) (by simp) (by simp)
  | rw a => exact inv.continueWord (inv.of_same hs (by simp) (by simp)) _
  | ww a w => exact inv.continueWord (inv.writeByte a _ hs) _
  | connect d start stop => exact inv.of_same (inv.connect d start stop hs) (by simp) (by simp)
  | overlayLoaded h => exact inv.of_same (inv.loadOverlay h hs) (by simp) (by simp)
  | rb | overlayTooLarge | loadcart | setboot | vblank | unknownIrq | reset | dump =>
    exact inv.of_same hs (by simp) (by simp)

/-- Every step keeps such a predicate. -/
theorem StoreInvariant.step {s t : State} (hs : P s) (h : step s = .next t) : P t := by
  cases stepsTo_of_step h with
  | idle => exact hs
  | half => exact inv.finishHalf (inv.of_same hs (by simp) (by simp)) _
  | command _ _ _ _ he => exact inv.executes (inv.of_same hs (by simp) (by simp)) he

end

theorem canonical_storeInvariant : StoreInvariant State.Canonical where
  of_same := State.Canonical.of_same
  writeByte a v h := h.writeByte a v
  connect d start stop h := h.bind d start stop
  loadOverlay hl h := h.setBytes .ovl 0 (by rw [Nat.zero_add]; exact hl)

/-- Settles O3: the canonical form is an invariant of the stores and the registry. -/
theorem stepKeepsStoresAndRegistryCanonical : Obligations.StepKeepsStoresAndRegistryCanonical :=
  fun _ _ => canonical_storeInvariant.step

/-! ### Echo RAM mirrors work RAM -/

theorem State.EchoMirrorsWorkRam.of_same {s t : State} (h : s.EchoMirrorsWorkRam)
    (hs : ∀ st, t.store st = s.store st) : t.EchoMirrorsWorkRam := by
  have he : t.echo = s.echo := hs .echo
  have hw : t.wram = s.wram := hs .wram
  intro i hi
  rw [he, hw, h i hi]

/-- The registry and the table send a byte write to no cell, to a mirrored pair, to work RAM above the
mirrored part, or to scratch or zero-page RAM. -/
theorem writeTarget_cells_cases (s : State) (a : Addr) :
    targetCells (s.writeTarget a) = [] ∨ (∃ i, s.writeTarget a = .mirrored i) ∨
    (∃ i, storeSize .echo ≤ i ∧ s.writeTarget a = .cell .wram i) ∨
    (∃ st i, (st = .scr ∨ st = .zp) ∧ s.writeTarget a = .cell st i) := by
  cases hb : s.binding a with
  | some d => left; rw [writeTarget_of_binding hb]; rfl
  | none =>
    rw [writeTarget_of_unbound hb]
    obtain h | ⟨-, -, h⟩ | ⟨h1, -, h⟩ | ⟨-, -, -, h⟩ | ⟨-, -, h⟩ := writeRows_cells_cases s.cart a.toNat
    · exact .inl h
    · exact .inr (.inl ⟨_, h⟩)
    · exact .inr (.inr (.inl ⟨_, by simp only [storeSize]; omega, h⟩))
    · exact .inr (.inr (.inr ⟨.scr, _, .inl rfl, h⟩))
    · exact .inr (.inr (.inr ⟨.zp, _, .inr rfl, h⟩))

/-- A byte stored outside the two mirrored windows leaves the mirror. -/
theorem State.EchoMirrorsWorkRam.setByte {s : State} (h : s.EchoMirrorsWorkRam) {st : Store} {i : Nat}
    (he : st ≠ .echo) (hw : st = .wram → storeSize .echo ≤ i) (v : Byte) :
    (s.setByte st i v).EchoMirrorsWorkRam := by
  intro j hj
  change Memory.read ((s.setByte st i v).store .echo) j = Memory.read ((s.setByte st i v).store .wram) j
  rw [setByte_store, setByte_store, if_neg (Ne.symm he)]
  split
  · next hst =>
    subst hst
    rw [Memory.read_write_other _ _ (Nat.ne_of_lt (Nat.lt_of_lt_of_le hj (hw rfl)))]
    exact h j hj
  · exact h j hj

/-- A mirrored byte goes to both stores (20_memory.md R59). -/
theorem State.EchoMirrorsWorkRam.setCells_mirrored {s : State} (h : s.EchoMirrorsWorkRam) (i : Nat)
    (v : Byte) : (s.setCells v (targetCells (.mirrored i))).EchoMirrorsWorkRam := by
  intro j hj
  change Memory.read (Memory.write s.echo i v) j = Memory.read (Memory.write s.wram i v) j
  rw [Memory.read_write, Memory.read_write, h j hj]

theorem State.EchoMirrorsWorkRam.writeByte {s : State} (h : s.EchoMirrorsWorkRam) (a : Addr) (v : Byte) :
    (s.writeByte a v).EchoMirrorsWorkRam := by
  refine State.EchoMirrorsWorkRam.of_same ?_ (writeByte_store s a v)
  obtain ht | ⟨i, ht⟩ | ⟨i, hi, ht⟩ | ⟨st, i, hst, ht⟩ := writeTarget_cells_cases s a <;> rw [ht]
  · exact h
  · exact h.setCells_mirrored i v
  · exact h.setByte (by decide) (fun _ => hi) v
  · obtain rfl | rfl := hst
    · exact h.setByte (st := .scr) (by decide) nofun v
    · exact h.setByte (st := .zp) (by decide) nofun v

theorem State.EchoMirrorsWorkRam.loadOverlay {s : State} (h : s.EchoMirrorsWorkRam) (i : Nat)
    (data : List Byte) : (s.setBytes .ovl i data).EchoMirrorsWorkRam := by
  induction data generalizing s i with
  | nil => exact h
  | cons v rest ih => exact ih (h.setByte (st := .ovl) (by decide) nofun v) (i + 1)

theorem echoMirrorsWorkRam_storeInvariant : StoreInvariant State.EchoMirrorsWorkRam where
  of_same h hs _ := h.of_same hs
  writeByte a v h := h.writeByte a v
  connect _ _ _ h := h.of_same (by simp)
  loadOverlay _ h := h.loadOverlay 0 _

/-- Settles O4: the mirror is an invariant of the stores. -/
theorem stepKeepsEchoTheMirrorOfWorkRam : Obligations.StepKeepsEchoTheMirrorOfWorkRam :=
  fun _ _ => echoMirrorsWorkRam_storeInvariant.step

/-! ### Construction -/

theorem reset_store (st : Store) : State.reset.store st = [] := by
  cases st <;> rfl

theorem reset_canonical : State.reset.Canonical where
  stores st := by rw [reset_store]; exact Memory.wf_nil
  bounds st := by simp [reset_store]
  registry := Registry.wf_nil

/-- Settles O2: no byte is written and nothing is bound. -/
theorem constructionMeetsTheInvariants : Obligations.ConstructionMeetsTheInvariants :=
  ⟨reset_canonical, fun _ _ => rfl⟩

/-- Settles O1: every unwritten byte reads as its `PowerOnFill` draw. -/
theorem constructionLeavesTheTableOfR38 : Obligations.ConstructionLeavesTheTableOfR38 :=
  ⟨rfl, rfl, rfl, rfl, fun st i _ => by simp [State.byteAt, reset_store], fun _ => rfl, rfl, rfl⟩

end Sys2Proof.Machine
end

section
/-! PROOFS. What the block never observes (10_state.md R30, R31, R34): its log, byte 4 of scratch and
byte 127 of zero-page RAM. -/

namespace Sys2Proof.Machine

open Sys2Proof

/-! ### The two bytes no read resolves to -/

theorem cartTarget_ne_cell (cart : Option CartId) (st : Store) (i : Nat) : cartTarget cart ≠ .cell st i := by
  cases cart <;> exact Target.noConfusion

/-- No read of the table resolves to scratch byte 4 or zero-page byte 127: 0xFF50 is `S.DMG` and 0xFFFF
is `S.IE` (20_memory.md R53). -/
theorem readRows_cell_reachable {boot : Bool} {cart : Option CartId} {n : Nat} {st : Store} {i : Nat}
    (h : readRows boot cart n = .cell st i) : (st = .scr → i ≠ 4) ∧ (st = .zp → i ≠ 127) := by
  unfold readRows at h
  split_ifs at h
  · cases h; exact ⟨nofun, nofun⟩
  · exact absurd h (cartTarget_ne_cell cart st i)
  · exact absurd h (cartTarget_ne_cell cart st i)
  · cases h; exact ⟨nofun, nofun⟩
  · cases h; exact ⟨nofun, nofun⟩
  · cases h; exact ⟨fun _ => by omega, nofun⟩
  · cases h; exact ⟨nofun, fun _ => by omega⟩

theorem readTarget_cell_reachable {s : State} {a : Addr} {st : Store} {i : Nat}
    (h : s.readTarget a = .cell st i) : (st = .scr → i ≠ 4) ∧ (st = .zp → i ≠ 127) := by
  cases hb : s.binding a with
  | some d => rw [readTarget_of_binding hb] at h; cases h
  | none => exact readRows_cell_reachable (readTarget_of_unbound hb ▸ h)

/-! ### States that differ in hidden parts only -/

/-- `s` with another log and other contents of scratch and zero-page RAM. -/
def State.withHidden (s : State) (log : List Diag) (scr zp : Memory) : State :=
  { s with log := log, scr := scr, zp := zp }

/-- How the hidden parts of two states may differ. -/
structure Hiding where
  log : List Diag → List Diag → Prop
  scr : Memory → Memory → Prop
  zp : Memory → Memory → Prop

/-- The difference stays as events and bytes come in on both sides, and no reachable byte shows it. -/
structure Hiding.Sound (H : Hiding) : Prop where
  log_append {l l' : List Diag} (es : List Diag) : H.log l l' → H.log (l ++ es) (l' ++ es)
  scr_write {m m' : Memory} (i : Nat) (v : Byte) : H.scr m m' → H.scr (m.write i v) (m'.write i v)
  zp_write {m m' : Memory} (i : Nat) (v : Byte) : H.zp m m' → H.zp (m.write i v) (m'.write i v)
  scr_read {m m' : Memory} {i : Nat} : H.scr m m' → i ≠ 4 → m'.read i = m.read i
  zp_read {m m' : Memory} {i : Nat} : H.zp m m' → i ≠ 127 → m'.read i = m.read i

/-- The states differ in hidden parts only, and there as `H` allows. -/
def Hiding.Alike (H : Hiding) (s s' : State) : Prop :=
  ∃ l m n, s' = s.withHidden l m n ∧ H.log s.log l ∧ H.scr s.scr m ∧ H.zp s.zp n

section

variable {H : Hiding} {s s' t : State}

/-- An operation that acts beside the hidden parts keeps states alike. -/
theorem Hiding.Alike.map (h : H.Alike s s') (f : State → State)
    (hf : ∀ l m n, f (s.withHidden l m n) = (f s).withHidden l m n) (hl : (f s).log = s.log)
    (hm : (f s).scr = s.scr) (hn : (f s).zp = s.zp) : H.Alike (f s) (f s') := by
  obtain ⟨l, m, n, rfl, h1, h2, h3⟩ := h
  exact ⟨l, m, n, hf l m n, hl ▸ h1, hm ▸ h2, hn ▸ h3⟩

/-! ### What alike states show -/

/-- What does not look at the hidden parts is the same of both. -/
theorem Hiding.Alike.seen {α : Type} (h : H.Alike s s') (f : State → α)
    (hf : ∀ l m n, f (s.withHidden l m n) = f s) : f s' = f s := by
  obtain ⟨l, m, n, rfl, -, -, -⟩ := h
  exact hf l m n

theorem Hiding.Alike.port (h : H.Alike s s') (p : Port) : s'.port p = s.port p :=
  h.seen (·.port p) (fun _ _ _ => by cases p <;> rfl)

theorem Hiding.Alike.grant (h : H.Alike s s') : s'.grant = s.grant := by
  have hw : s'.waiting = s.waiting := funext (waiting_of_port h.port)
  have hn : s'.nextTurn = s.nextTurn := h.seen State.nextTurn (fun _ _ _ => rfl)
  simp only [State.grant, State.waitingPorts, choose_of_nextTurn hn, hw]

theorem Hiding.Alike.issuer (h : H.Alike s s') : s'.issuer = s.issuer := h.seen State.issuer (fun _ _ _ => rfl)

theorem Hiding.Alike.torn (h : H.Alike s s') : s'.torn = s.torn :=
  torn_of_same h.port h.issuer (h.seen State.sched (fun _ _ _ => rfl)) (h.seen State.turns (fun _ _ _ => rfl))

theorem Hiding.Alike.reg (h : H.Alike s s') : s'.reg = s.reg := h.seen State.reg (fun _ _ _ => rfl)

theorem Hiding.Alike.readTarget (h : H.Alike s s') (a : Addr) : s'.readTarget a = s.readTarget a :=
  h.seen (·.readTarget a) (fun _ _ _ => rfl)

theorem Hiding.Alike.writeTarget (h : H.Alike s s') (a : Addr) : s'.writeTarget a = s.writeTarget a :=
  h.seen (·.writeTarget a) (fun _ _ _ => rfl)

theorem Hiding.Alike.byteAt (hH : H.Sound) (h : H.Alike s s') {st : Store} {i : Nat}
    (hs : st = .scr → i ≠ 4) (hz : st = .zp → i ≠ 127) : s'.byteAt st i = s.byteAt st i := by
  obtain ⟨l, m, n, rfl, -, h2, h3⟩ := h
  cases st with
  | scr => exact congrArg (Option.getD · (Config.powerOnFill .scr i)) (hH.scr_read h2 (hs rfl))
  | zp => exact congrArg (Option.getD · (Config.powerOnFill .zp i)) (hH.zp_read h3 (hz rfl))
  | ovl | wram | echo => rfl

/-- A byte read answers the same in both. -/
theorem Hiding.Alike.readValue (hH : H.Sound) (h : H.Alike s s') (a : Addr) :
    s'.readValue a = s.readValue a := by
  unfold State.readValue
  rw [h.readTarget a]
  split
  · exact h.seen (·.answer _) (fun _ _ _ => rfl)
  · exact h.seen (·.answer _) (fun _ _ _ => rfl)
  · next ht =>
    obtain ⟨hs, hz⟩ := readTarget_cell_reachable ht
    exact h.byteAt hH hs hz
  · exact h.byteAt hH (fun he => by cases he) (fun he => by cases he)
  · exact h.seen State.intFlag (fun _ _ _ => rfl)
  · exact h.seen State.intEnable (fun _ _ _ => rfl)
  · exact h.seen State.dmg (fun _ _ _ => rfl)
  · rfl

/-! ### What keeps states alike -/

theorem Hiding.Alike.takeTurn (h : H.Alike s s') (p : Port) : H.Alike (s.takeTurn p) (s'.takeTurn p) :=
  h.map (·.takeTurn p) (fun _ _ _ => by unfold State.takeTurn; cases hs : s.sched <;> simp [State.withHidden, hs])
    (by simp) (by simp) (by simp)

theorem Hiding.Alike.withPort (h : H.Alike s s') (p : Port) (ps : PortState) :
    H.Alike (s.withPort p ps) (s'.withPort p ps) :=
  h.map (·.withPort p ps) (fun _ _ _ => by cases p <;> rfl) (by simp) (by simp) (by simp)

theorem Hiding.Alike.respond (h : H.Alike s s') (rdata : Word) (status : Byte) :
    H.Alike (s.respond rdata status) (s'.respond rdata status) :=
  h.map (·.respond rdata status) (fun _ _ _ => rfl) rfl rfl rfl

theorem Hiding.Alike.callOut (h : H.Alike s s') (c : Call) : H.Alike (s.callOut c) (s'.callOut c) :=
  h.map (·.callOut c) (fun _ _ _ => rfl) rfl rfl rfl

theorem Hiding.Alike.useAnswer (h : H.Alike s s') : H.Alike s.useAnswer s'.useAnswer :=
  h.map State.useAnswer (fun _ _ _ => by unfold State.useAnswer; cases hs : s.answers <;> simp [State.withHidden, hs])
    (by simp) (by simp) (by simp)

theorem Hiding.Alike.emitAll (hH : H.Sound) (h : H.Alike s s') (es : List Diag) :
    H.Alike (s.emitAll es) (s'.emitAll es) := by
  obtain ⟨l, m, n, rfl, h1, h2, h3⟩ := h
  exact ⟨l ++ es, m, n, rfl, hH.log_append es h1, h2, h3⟩

theorem Hiding.Alike.emit (hH : H.Sound) (h : H.Alike s s') (e : Diag) : H.Alike (s.emit e) (s'.emit e) :=
  h.emitAll hH [e]

theorem Hiding.Alike.setByte (hH : H.Sound) (h : H.Alike s s') (st : Store) (i : Nat) (v : Byte) :
    H.Alike (s.setByte st i v) (s'.setByte st i v) := by
  obtain ⟨l, m, n, rfl, h1, h2, h3⟩ := h
  cases st with
  | scr => exact ⟨l, m.write i v, n, rfl, h1, hH.scr_write i v h2, h3⟩
  | zp => exact ⟨l, m, n.write i v, rfl, h1, h2, hH.zp_write i v h3⟩
  | ovl | wram | echo => exact ⟨l, m, n, rfl, h1, h2, h3⟩

theorem Hiding.Alike.setBytes (hH : H.Sound) (h : H.Alike s s') (st : Store) (i : Nat) (data : List Byte) :
    H.Alike (s.setBytes st i data) (s'.setBytes st i data) := by
  induction data generalizing s s' i with
  | nil => exact h
  | cons v rest ih => exact ih (h.setByte hH st i v) (i + 1)

theorem Hiding.Alike.setCells (hH : H.Sound) (h : H.Alike s s') (v : Byte) (cells : List (Store × Nat)) :
    H.Alike (s.setCells v cells) (s'.setCells v cells) := by
  induction cells generalizing s s' with
  | nil => exact h
  | cons c rest ih => exact ih (h.setByte hH c.1 c.2 v)

theorem Hiding.Alike.afterRead (hH : H.Sound) (h : H.Alike s s') (a : Addr) :
    H.Alike (s.afterRead a) (s'.afterRead a) := by
  unfold State.afterRead
  rw [h.readTarget a]
  split
  · exact h.useAnswer.callOut _
  · exact h.useAnswer.callOut _
  · exact h.emit hH _
  all_goals exact h

theorem Hiding.Alike.writeByte (hH : H.Sound) (h : H.Alike s s') (a : Addr) (v : Byte) :
    H.Alike (s.writeByte a v) (s'.writeByte a v) := by
  unfold State.writeByte
  rw [h.writeTarget a]
  split
  · exact h.callOut _
  · exact h.callOut _
  · exact h.setCells hH v _
  · exact h.setCells hH v _
  · exact h.map (·.withIntFlag v) (fun _ _ _ => rfl) rfl rfl rfl
  · exact h.map (·.withIntEnable v) (fun _ _ _ => rfl) rfl rfl rfl
  · exact h.map (·.withDmg v) (fun _ _ _ => rfl) rfl rfl rfl
  · exact h.emit hH _

theorem Hiding.Alike.finishHalf (hH : H.Sound) (h : H.Alike s s') (hf : Half) :
    H.Alike (s.finishHalf hf) (s'.finishHalf hf) := by
  cases hf with
  | readHigh lo a =>
    simp only [State.finishHalf, h.readValue hH a]
    exact (h.afterRead hH a).respond _ _
  | writeHigh hi a => exact (h.writeByte hH a hi).respond _ _

theorem Hiding.Alike.continueWord (hH : H.Sound) (h : H.Alike s s') (hf : Half) :
    H.Alike (s.continueWord hf) (s'.continueWord hf) := by
  unfold State.continueWord State.holdHalf
  rw [h.torn, h.issuer, h.port]
  split
  · exact h.withPort _ _
  · exact (h.takeTurn _).finishHalf hH hf

/-- Alike states execute a command alike. -/
theorem Hiding.Alike.executes (hH : H.Sound) (h : H.Alike s s') {i : Instr} (he : Executes s i t) :
    ∃ t', Executes s' i t' ∧ H.Alike t t' := by
  cases he with
  | rb a => exact ⟨_, .rb a, by rw [h.readValue hH a]; exact (h.afterRead hH a).respond _ _⟩
  | wb a v => exact ⟨_, .wb a v, (h.writeByte hH a v).respond _ _⟩
  | rw a => exact ⟨_, .rw a, by rw [h.readValue hH a]; exact (h.afterRead hH a).continueWord hH _⟩
  | ww a w => exact ⟨_, .ww a w, (h.writeByte hH a _).continueWord hH _⟩
  | connect d start stop =>
    refine ⟨_, .connect d start stop, ?_⟩
    rw [h.reg]
    exact (h.map (·.withReg (s.reg.bind d start.toNat stop.toNat)) (fun _ _ _ => rfl) rfl rfl rfl).respond _ _
  | overlayTooLarge hl => exact ⟨_, .overlayTooLarge hl, h.respond _ _⟩
  | overlayLoaded hl => exact ⟨_, .overlayLoaded hl, (h.setBytes hH .ovl 0 _).respond _ _⟩
  | loadcart c =>
    have hc := h.map (·.withCart (some c)) (fun _ _ _ => rfl) rfl rfl rfl
    exact ⟨_, .loadcart c, (hc.emit hH _).respond _ _⟩
  | setboot e =>
    exact ⟨_, .setboot e, (h.map (·.withBootMode e) (fun _ _ _ => rfl) rfl rfl rfl).respond _ _⟩
  | vblank =>
    exact ⟨_, .vblank, (h.map (·.withIntFlag vblankFlags) (fun _ _ _ => rfl) rfl rfl rfl).respond _ _⟩
  | unknownIrq hk => exact ⟨_, .unknownIrq hk, (h.emit hH _).respond _ _⟩
  | reset =>
    have hr := h.map (fun u => (u.withBootMode true).withIntFlag 0x00) (fun _ _ _ => rfl) rfl rfl rfl
    exact ⟨_, .reset, hr.respond _ _⟩
  | dump => exact ⟨_, .dump, by rw [h.reg]; exact (h.emitAll hH _).respond _ _⟩

/-- Alike states take the same step: with the same responses, calls and everything else that is not
hidden. -/
theorem Hiding.Alike.step (hH : H.Sound) (h : H.Alike s s') (hs : step s = .next t) :
    ∃ t', Machine.step s' = .next t' ∧ H.Alike t t' := by
  cases stepsTo_of_step hs with
  | idle hg => exact ⟨s', step_of_stepsTo (.idle (h.grant.trans hg)), h⟩
  | @half p hf hg hh =>
    refine ⟨_, step_of_stepsTo (.half (h.grant.trans hg) ((h.port p).symm ▸ hh)), ?_⟩
    rw [h.port p]
    exact ((h.takeTurn p).withPort p _).finishHalf hH hf
  | @command p c rest i _ hg hh hq hd he =>
    obtain ⟨t', he', ht⟩ := ((h.takeTurn p).withPort p ⟨rest, none⟩).executes hH he
    have hp := h.port p
    exact ⟨t', step_of_stepsTo (.command (h.grant.trans hg) (hp ▸ hh) (hp ▸ hq) hd he'), ht⟩

end

/-! ### The log -/

/-- The logs are two old ones with the same events appended; no byte differs. -/
def logHiding (old old' : List Diag) : Hiding where
  log l l' := ∃ es, l = old ++ es ∧ l' = old' ++ es
  scr := (· = ·)
  zp := (· = ·)

theorem logHiding_sound (old old' : List Diag) : (logHiding old old').Sound where
  log_append := by
    rintro _ _ es ⟨es', rfl, rfl⟩
    exact ⟨es' ++ es, List.append_assoc .., List.append_assoc ..⟩
  scr_write := by rintro _ _ i v rfl; rfl
  zp_write := by rintro _ _ i v rfl; rfl
  scr_read := by rintro _ _ i rfl -; rfl
  zp_read := by rintro _ _ i rfl -; rfl

/-- With any other log before, a step does the same and appends the same events. -/
theorem step_withLog {s t : State} (h : step s = .next t) (l : List Diag) :
    ∃ es, t.log = s.log ++ es ∧ step { s with log := l } = .next { t with log := l ++ es } := by
  have hs : (logHiding s.log l).Alike s { s with log := l } :=
    ⟨l, s.scr, s.zp, rfl, ⟨[], by simp, by simp⟩, rfl, rfl⟩
  obtain ⟨t', ht', _, _, _, rfl, ⟨es, hes, rfl⟩, rfl, rfl⟩ := hs.step (logHiding_sound s.log l) h
  exact ⟨es, hes, ht'⟩

/-- Settles O56: the events of the step are those it appends with its own log, and `t.log` fixes them. -/
theorem theLogIsAppendOnlyAndNeverRead : Obligations.TheLogIsAppendOnlyAndNeverRead := by
  refine ⟨rfl, fun s t h => ?_⟩
  obtain ⟨es, hes, -⟩ := step_withLog h s.log
  refine ⟨es, hes, fun l => ?_⟩
  obtain ⟨es', hes', hl⟩ := step_withLog h l
  obtain rfl : es = es' := List.append_cancel_left (hes.symm.trans hes')
  exact hl

/-! ### The unreachable bytes -/

/-- Two stores that hold the same bytes but for index `k`. -/
def AgreeOff (k : Nat) (m m' : Memory) : Prop := ∀ i, i ≠ k → m'.read i = m.read i

theorem AgreeOff.write {k : Nat} {m m' : Memory} (h : AgreeOff k m m') (i : Nat) (v : Byte) :
    AgreeOff k (m.write i v) (m'.write i v) := by
  intro j hj
  rw [Memory.read_write, Memory.read_write, h j hj]

/-- The logs are the same; scratch may differ at 4 and zero-page RAM at 127. -/
def unreachableHiding : Hiding where
  log := (· = ·)
  scr := AgreeOff 4
  zp := AgreeOff 127

theorem unreachableHiding_sound : unreachableHiding.Sound where
  log_append := by rintro _ _ es rfl; rfl
  scr_write i v h := h.write i v
  zp_write i v h := h.write i v
  scr_read h hi := h _ hi
  zp_read h hi := h _ hi

/-- Settles O57: no read resolves to either byte, and every write goes to both states alike. -/
theorem unreachableBytesAreNeverObserved : Obligations.UnreachableBytesAreNeverObserved := by
  intro s s' t hs' hscr hzp h
  have hs : unreachableHiding.Alike s s' := ⟨s.log, s'.scr, s'.zp, hs', rfl, hscr, hzp⟩
  obtain ⟨t', ht', _, m, n, rfl, rfl, hm, hn⟩ := hs.step unreachableHiding_sound h
  exact ⟨_, ht', rfl, hm, hn⟩

end Sys2Proof.Machine
end

section
/-! PROOFS. Which commands write each element of the router state (10_state.md R20), and that boot mode
and `S.DMG` are independent (R26). -/

namespace Sys2Proof.Machine

open Sys2Proof

/-! ### The addresses of the single-byte registers -/

/-- The address at which the table puts a single-byte register (20_memory.md R61). -/
def registerAddr : Target → Option Addr
  | .intFlag => some 0xFF0F#16
  | .intEnable => some 0xFFFF#16
  | .dmg => some 0xFF50#16
  | _ => none

theorem registerAddr_cartTarget (cart : Option CartId) : registerAddr (cartTarget cart) = none := by
  cases cart <;> rfl

theorem writeRows_register {cart : Option CartId} {n : Nat} {r : Addr}
    (h : registerAddr (writeRows cart n) = some r) : n = r.toNat := by
  unfold writeRows at h
  split_ifs at h
  · rw [registerAddr_cartTarget] at h; cases h
  · rw [registerAddr_cartTarget] at h; cases h
  all_goals cases h
  all_goals assumption

/-- A byte write resolves to a register only at the register's own address. -/
theorem addr_of_writeTarget_register {s : State} {a r : Addr}
    (h : registerAddr (s.writeTarget a) = some r) : a = r := by
  cases hb : s.binding a with
  | some d => rw [writeTarget_of_binding hb] at h; cases h
  | none => exact BitVec.eq_of_toNat_eq (writeRows_register (writeTarget_of_unbound hb ▸ h))

theorem writeTarget_ne_register {s : State} {a r : Addr} {target : Target}
    (hr : registerAddr target = some r) (h : ¬ a = r) : s.writeTarget a ≠ target := by
  rintro rfl
  exact h (addr_of_writeTarget_register hr)

theorem writeByte_intFlag_of_ne (s : State) {a : Addr} (v : Byte) (h : ¬ a = 0xFF0F#16) :
    (s.writeByte a v).intFlag = s.intFlag := by
  rw [writeByte_intFlag, if_neg (writeTarget_ne_register rfl h)]

theorem writeByte_intEnable_of_ne (s : State) {a : Addr} (v : Byte) (h : ¬ a = 0xFFFF#16) :
    (s.writeByte a v).intEnable = s.intEnable := by
  rw [writeByte_intEnable, if_neg (writeTarget_ne_register rfl h)]

theorem writeByte_dmg_of_ne (s : State) {a : Addr} (v : Byte) (h : ¬ a = 0xFF50#16) :
    (s.writeByte a v).dmg = s.dmg := by
  rw [writeByte_dmg, if_neg (writeTarget_ne_register rfl h)]

/-! ### Stores that a write leaves -/

/-- No byte write reaches the overlay (20_memory.md R55). -/
@[simp] theorem writeByte_ovl (s : State) (a : Addr) (v : Byte) : (s.writeByte a v).ovl = s.ovl := by
  change (s.writeByte a v).store .ovl = s.store .ovl
  rw [writeByte_store]
  obtain ht | ⟨i, ht⟩ | ⟨i, -, ht⟩ | ⟨st, i, hst, ht⟩ := writeTarget_cells_cases s a <;> rw [ht]
  · rfl
  · rfl
  · rfl
  · obtain rfl | rfl := hst <;> rfl

theorem setBytes_store_of_ne (s : State) {st x : Store} (h : x ≠ st) (i : Nat) (data : List Byte) :
    (s.setBytes st i data).store x = s.store x := by
  induction data generalizing s i with
  | nil => rfl
  | cons v rest ih => rw [State.setBytes, ih, setByte_store, if_neg h]

/-! ### Elements under bus accesses -/

/-- An element of the state that, of the operations a bus access is made of, only byte writes at the
addresses `writes` change. -/
structure BusElement {α : Type} (f : State → α) (writes : Addr → Prop) : Prop where
  withPort (s : State) (p : Port) (ps : PortState) : f (s.withPort p ps) = f s
  takeTurn (s : State) (p : Port) : f (s.takeTurn p) = f s
  respond (s : State) (d : Word) (st : Byte) : f (s.respond d st) = f s
  afterRead (s : State) (a : Addr) : f (s.afterRead a) = f s
  writeByte (s : State) {a : Addr} (v : Byte) : ¬ writes a → f (s.writeByte a v) = f s

section

variable {α : Type} {f : State → α} {writes : Addr → Prop} (e : BusElement f writes)

include e

theorem BusElement.continueWord (s : State) (h : Half) (hh : ∀ u, f (State.finishHalf u h) = f u) :
    f (s.continueWord h) = f s := by
  unfold State.continueWord
  split
  · exact e.withPort s _ _
  · rw [hh, e.takeTurn]

/-- RW leaves the element. -/
theorem BusElement.readWord (s : State) (a b : Addr) (lo : Byte) :
    f ((s.afterRead a).continueWord (.readHigh lo b)) = f s := by
  have hh (u : State) : f (u.finishHalf (.readHigh lo b)) = f u := (e.respond ..).trans (e.afterRead u b)
  rw [e.continueWord _ _ hh, e.afterRead]

/-- WB changes the element only at its addresses. -/
theorem BusElement.writeByte_changes {s : State} {a : Addr} {v : Byte} {d : Word} {st : Byte}
    (h : f ((s.writeByte a v).respond d st) ≠ f s) : writes a := by
  by_contra ha
  exact h ((e.respond ..).trans (e.writeByte s v ha))

/-- WW changes the element only if one of its two halves is at its addresses. -/
theorem BusElement.writeWord_changes {s : State} {a b : Addr} {lo hi : Byte}
    (h : f ((s.writeByte a lo).continueWord (.writeHigh hi b)) ≠ f s) : writes a ∨ writes b := by
  by_contra hab
  obtain ⟨ha, hb⟩ := not_or.1 hab
  have hh (u : State) : f (u.finishHalf (.writeHigh hi b)) = f u := (e.respond ..).trans (e.writeByte u hi hb)
  exact h ((e.continueWord _ _ hh).trans (e.writeByte s lo ha))

end

theorem intFlag_busElement : BusElement State.intFlag (· = 0xFF0F#16) where
  withPort := withPort_intFlag
  takeTurn := takeTurn_intFlag
  respond := respond_intFlag
  afterRead := afterRead_intFlag
  writeByte := writeByte_intFlag_of_ne

theorem intEnable_busElement : BusElement State.intEnable (· = 0xFFFF#16) where
  withPort := withPort_intEnable
  takeTurn := takeTurn_intEnable
  respond := respond_intEnable
  afterRead := afterRead_intEnable
  writeByte := writeByte_intEnable_of_ne

theorem dmg_busElement : BusElement State.dmg (· = 0xFF50#16) where
  withPort := withPort_dmg
  takeTurn := takeTurn_dmg
  respond := respond_dmg
  afterRead := afterRead_dmg
  writeByte := writeByte_dmg_of_ne

theorem ovl_busElement : BusElement State.ovl (fun _ => False) where
  withPort := withPort_ovl
  takeTurn := takeTurn_ovl
  respond := respond_ovl
  afterRead := afterRead_ovl
  writeByte s a v _ := writeByte_ovl s a v

theorem store_busElement (x : Store) : BusElement (State.store · x) (fun _ => True) where
  withPort s p ps := withPort_store s p ps x
  takeTurn s p := takeTurn_store s p x
  respond s d st := respond_store s d st x
  afterRead s a := afterRead_store s a x
  writeByte _ _ _ h := absurd trivial h

/-- The RAMs are the stores other than the overlay. -/
theorem rams_of_store {s t : State} (h : ∀ x, x ≠ .ovl → t.store x = s.store x) :
    t.wram = s.wram ∧ t.echo = s.echo ∧ t.scr = s.scr ∧ t.zp = s.zp :=
  ⟨h .wram (by decide), h .echo (by decide), h .scr (by decide), h .zp (by decide)⟩

/-- Settles O54, command by command. -/
theorem elementsAreWrittenOnlyByTheirCommands : Obligations.ElementsAreWrittenOnlyByTheirCommands := by
  intro i s t h
  cases executes_of_exec h with
  | wb a v =>
    refine ⟨by simp, fun hne => ?_, fun hne => ?_, fun hne => ?_, by simp, fun _ => .inl ⟨a, v, rfl⟩,
      by simp, by simp⟩
    · exact .inl ⟨v, by rw [intFlag_busElement.writeByte_changes hne]⟩
    · exact .inl ⟨v, by rw [intEnable_busElement.writeByte_changes hne]⟩
    · exact .inl ⟨v, by rw [dmg_busElement.writeByte_changes hne]⟩
  | ww a w =>
    refine ⟨by simp, fun hne => ?_, fun hne => ?_, fun hne => ?_, fun hne => ?_, fun _ => .inr ⟨a, w, rfl⟩,
      by simp, by simp⟩
    · exact .inr (.inl ⟨a, w, rfl, intFlag_busElement.writeWord_changes hne⟩)
    · exact .inr ⟨a, w, rfl, intEnable_busElement.writeWord_changes hne⟩
    · exact .inr ⟨a, w, rfl, dmg_busElement.writeWord_changes hne⟩
    · exact (or_self_iff.1 (ovl_busElement.writeWord_changes hne)).elim
  | rw a =>
    obtain ⟨hw, he, hs, hz⟩ :=
      rams_of_store (fun x _ => (store_busElement x).readWord s a (nextAddr a) (s.readValue a))
    simp [intFlag_busElement.readWord, intEnable_busElement.readWord, dmg_busElement.readWord,
      ovl_busElement.readWord, hw, he, hs, hz]
  | @overlayLoaded data hl =>
    obtain ⟨hw, he, hs, hz⟩ := rams_of_store (fun x hx => setBytes_store_of_ne s hx 0 data)
    simp [hw, he, hs, hz]
  | vblank => simp [vblankKind]
  | rb | connect | overlayTooLarge | loadcart | setboot | unknownIrq | reset | dump => simp

/-- Settles O33: the two commands' frames. -/
theorem bootModeIsIndependentOfDmg : Obligations.BootModeIsIndependentOfDmg :=
  fun s => ⟨fun v => ⟨_, exec_wb 0xFF50#16 v s, by simp⟩, fun e => ⟨_, exec_setboot e s, by simp⟩⟩

end Sys2Proof.Machine
end

section
/-! PROOFS. The memory map (20_memory.md): byte accesses kind of target by kind of target, then each
region of the table; and the two transactions of a word access (R72). -/

namespace Sys2Proof.Machine

open Sys2Proof

/-! ### What RB and WB do, by the target they resolve to -/

/-- The byte of the router's own state that a target names. -/
def State.heldByte (s : State) : Target → Option Byte
  | .cell st i => some (s.byteAt st i)
  | .mirrored i => some (s.byteAt .wram i)
  | .intFlag => some s.intFlag
  | .intEnable => some s.intEnable
  | .dmg => some s.dmg
  | .periph _ | .cart _ | .unmapped => none

section

variable {s : State} {a : Addr} {v : Byte} {target : Target} {d : DeviceId} {c : CartId}

/-- A read that the router answers from its own state does nothing but respond. -/
theorem exec_rb_of_heldByte (h : s.readTarget a = target) (hv : s.heldByte target = some v) :
    exec (.rb a) s = .next (s.respond (zext16 v) statusOk) := by
  rw [exec_rb, State.afterRead, State.readValue, h]
  cases target with
  | periph | cart | unmapped => cases hv
  | cell | mirrored | intFlag | intEnable | dmg => cases hv; rfl

theorem exec_rb_of_periph (h : s.readTarget a = .periph d) :
    exec (.rb a) s = .next ((s.useAnswer.callOut (.periphRead d a)).respond
      (zext16 (s.answer (Config.periphByte d a))) statusOk) := by
  rw [exec_rb, State.afterRead, State.readValue, h]

theorem exec_rb_of_cart (h : s.readTarget a = .cart c) :
    exec (.rb a) s = .next ((s.useAnswer.callOut (.cartRead c a)).respond
      (zext16 (s.answer (Config.cartByte c a))) statusOk) := by
  rw [exec_rb, State.afterRead, State.readValue, h]

theorem exec_rb_of_unmapped (h : s.readTarget a = .unmapped) :
    exec (.rb a) s = .next ((s.emit (.unmappedRead a)).respond 0x0000 statusOk) := by
  rw [exec_rb, State.afterRead, State.readValue, h]
  rfl

theorem exec_wb_of_periph (h : s.writeTarget a = .periph d) :
    exec (.wb a v) s = .next ((s.callOut (.periphWrite d a v)).respond 0x0000 statusOk) := by
  rw [exec_wb, State.writeByte, h]

theorem exec_wb_of_cart (h : s.writeTarget a = .cart c) :
    exec (.wb a v) s = .next ((s.callOut (.cartWrite c a v)).respond 0x0000 statusOk) := by
  rw [exec_wb, State.writeByte, h]

theorem exec_wb_of_cell {st : Store} {i : Nat} (h : s.writeTarget a = .cell st i) :
    exec (.wb a v) s = .next ((s.setByte st i v).respond 0x0000 statusOk) := by
  rw [exec_wb, State.writeByte, h]
  rfl

theorem exec_wb_of_mirrored {i : Nat} (h : s.writeTarget a = .mirrored i) :
    exec (.wb a v) s = .next (((s.setByte .wram i v).setByte .echo i v).respond 0x0000 statusOk) := by
  rw [exec_wb, State.writeByte, h]
  rfl

theorem exec_wb_of_intFlag (h : s.writeTarget a = .intFlag) :
    exec (.wb a v) s = .next ((s.withIntFlag v).respond 0x0000 statusOk) := by
  rw [exec_wb, State.writeByte, h]

theorem exec_wb_of_intEnable (h : s.writeTarget a = .intEnable) :
    exec (.wb a v) s = .next ((s.withIntEnable v).respond 0x0000 statusOk) := by
  rw [exec_wb, State.writeByte, h]

theorem exec_wb_of_dmg (h : s.writeTarget a = .dmg) :
    exec (.wb a v) s = .next ((s.withDmg v).respond 0x0000 statusOk) := by
  rw [exec_wb, State.writeByte, h]

theorem exec_wb_of_unmapped (h : s.writeTarget a = .unmapped) :
    exec (.wb a v) s = .next ((s.emit (.unmappedWrite a v)).respond 0x0000 statusOk) := by
  rw [exec_wb, State.writeByte, h]

/-! ### A collaborator's answer (log entry 6) -/

/-- The byte answered is the environment's next. -/
theorem respond_answer_of_answers_cons {rest : List Byte} (h : s.answers = v :: rest) (call : Call)
    (free : Nat → Byte) :
    (s.useAnswer.callOut call).respond (zext16 (s.answer free)) statusOk =
      { s with
        answers := rest
        calls := s.calls ++ [call]
        responses := s.responses ++ [⟨s.issuer, v.zeroExtend 16, 0x00⟩] } := by
  rw [State.useAnswer, State.answer, h]
  rfl

/-- With none laid down, the byte answered is a free value. -/
theorem respond_answer_of_answers_nil (h : s.answers = []) (call : Call) (free : Nat → Byte) :
    (s.useAnswer.callOut call).respond (zext16 (s.answer free)) statusOk =
      { s with
        draws := s.draws + 1
        calls := s.calls ++ [call]
        responses := s.responses ++ [⟨s.issuer, (free s.draws).zeroExtend 16, 0x00⟩] } := by
  rw [State.useAnswer, State.answer, h]
  rfl

end

/-! ### What leaves the router state (10_state.md R20) as it is -/

theorem State.SameRouter.trans {s t u : State} (h : s.SameRouter t) (h' : t.SameRouter u) : s.SameRouter u where
  bootMode := h'.bootMode.trans h.bootMode
  intFlag := h'.intFlag.trans h.intFlag
  intEnable := h'.intEnable.trans h.intEnable
  dmg := h'.dmg.trans h.dmg
  bytes st i := (h'.bytes st i).trans (h.bytes st i)
  reg := h'.reg.trans h.reg
  cart := h'.cart.trans h.cart

theorem sameRouter_respond (s : State) (d : Word) (st : Byte) : s.SameRouter (s.respond d st) := by
  constructor <;> simp

theorem sameRouter_callOut (s : State) (c : Call) : s.SameRouter (s.callOut c) := by
  constructor <;> simp

theorem sameRouter_useAnswer (s : State) : s.SameRouter s.useAnswer := by
  constructor <;> simp

theorem sameRouter_withPort (s : State) (p : Port) (ps : PortState) : s.SameRouter (s.withPort p ps) := by
  constructor <;> simp

theorem sameRouter_takeTurn (s : State) (p : Port) : s.SameRouter (s.takeTurn p) := by
  constructor <;> simp

theorem sameRouter_afterRead (s : State) (a : Addr) : s.SameRouter (s.afterRead a) := by
  constructor <;> simp

/-! ### The peripherals (20_memory.md R52) -/

/-- Settles O20: the registry comes before the table in both directions. -/
theorem bindingTakesPrecedenceOverEveryRegion : Obligations.BindingTakesPrecedenceOverEveryRegion := by
  intro s a d hb
  have hr := exec_rb_of_periph (readTarget_of_binding hb)
  refine ⟨fun v rest ha => ?_, fun ha => ?_, fun v => exec_wb_of_periph (writeTarget_of_binding hb)⟩
  · rw [hr, respond_answer_of_answers_cons ha]
  · rw [hr, respond_answer_of_answers_nil ha]

/-! ### The cartridge windows and the overlay (20_memory.md R55 to R57) -/

section

variable {s : State} {a : Addr}

/-- A read of either window that the overlay does not serve goes to the cartridge's row. -/
theorem readTarget_cartWindow (hb : s.binding a = none)
    (hw : a.toNat ≤ 0x7FFF ∨ (0xA000 ≤ a.toNat ∧ a.toNat ≤ 0xBFFF))
    (ho : ¬ (a.toNat ≤ 0x00FF ∧ s.bootMode = true)) : s.readTarget a = cartTarget s.cart := by
  rw [readTarget_of_unbound hb]
  obtain h | ⟨h1, h2⟩ := hw
  · exact readRows_rom h ho
  · exact readRows_cartRam h1 h2

theorem writeTarget_cartWindow (hb : s.binding a = none)
    (hw : a.toNat ≤ 0x7FFF ∨ (0xA000 ≤ a.toNat ∧ a.toNat ≤ 0xBFFF)) :
    s.writeTarget a = cartTarget s.cart := by
  rw [writeTarget_of_unbound hb]
  obtain h | ⟨h1, h2⟩ := hw
  · exact writeRows_rom h
  · exact writeRows_cartRam h1 h2

end

/-- Settles O21: both windows are the cartridge's row. -/
theorem cartridgeWindowsGoToTheCartridge : Obligations.CartridgeWindowsGoToTheCartridge := by
  intro s a c hb hc hw
  have hcart : cartTarget s.cart = .cart c := by rw [hc]; rfl
  have hr (ho) := exec_rb_of_cart ((readTarget_cartWindow hb hw ho).trans hcart)
  refine ⟨fun v rest ha ho => ?_, fun ha ho => ?_, fun v =>
    exec_wb_of_cart ((writeTarget_cartWindow hb hw).trans hcart)⟩
  · rw [hr ho, respond_answer_of_answers_cons ha]
  · rw [hr ho, respond_answer_of_answers_nil ha]

/-- Settles O22: with no cartridge its row is unmapped. -/
theorem cartridgeWindowsWithoutCartridgeAreUnmapped :
    Obligations.CartridgeWindowsWithoutCartridgeAreUnmapped := by
  intro s a hb hc hw
  have hcart : cartTarget s.cart = .unmapped := by rw [hc]; rfl
  exact ⟨fun ho => exec_rb_of_unmapped ((readTarget_cartWindow hb hw ho).trans hcart),
    fun v => exec_wb_of_unmapped ((writeTarget_cartWindow hb hw).trans hcart)⟩

/-- Settles O23: the overlay's row is in the read table only, and only for boot mode. -/
theorem overlayIsReadInBootModeAndNeverWritten : Obligations.OverlayIsReadInBootModeAndNeverWritten := by
  refine ⟨fun s a hb ha hboot => ?_, fun s a c hb hc ha ho => ?_, fun s a v c hb hc ha => ?_,
    fun s a v => ⟨_, exec_wb a v s, by simp⟩⟩
  · have ht : s.readTarget a = .cell .ovl a.toNat := by
      rw [readTarget_of_unbound hb, hboot, readRows_overlay ha]
    exact exec_rb_of_heldByte ht rfl
  · have ho' : ¬ (a.toNat ≤ 0x00FF ∧ s.bootMode = true) := by
      rintro ⟨ha', hboot⟩
      obtain h | h := ho
      · simp [hboot] at h
      · omega
    have ht : s.readTarget a = .cart c := by
      rw [readTarget_cartWindow hb (.inl (by omega)) ho', hc]; rfl
    exact ⟨_, exec_rb_of_cart ht, by simp,
      ((sameRouter_useAnswer s).trans (sameRouter_callOut _ _)).trans (sameRouter_respond _ _ _)⟩
  · have ht : s.writeTarget a = .cart c := by
      rw [writeTarget_cartWindow hb (.inl (by omega)), hc]; rfl
    exact ⟨_, exec_wb_of_cart ht, by simp, (sameRouter_callOut s _).trans (sameRouter_respond _ _ _)⟩

/-! ### The stores (20_memory.md R58 to R60, R62, R63) -/

/-- A byte written is read back at any unbound address whose row names a cell the write stored to. -/
theorem exec_rb_of_stored {s : State} {a b : Addr} {st : Store} {i : Nat}
    (hm : (st, i) ∈ targetCells (s.writeTarget a)) (hb : s.binding b = none)
    (hr : ∀ boot cart, readRows boot cart b.toNat = .cell st i) (v : Byte) :
    let t := (s.writeByte a v).respond 0x0000 statusOk
    t.byteAt st i = v ∧ exec (.rb b) t = .next (t.respond (zext16 v) statusOk) := by
  intro t
  have hv : t.byteAt st i = v := by simp [t, byteAt_writeByte_of_mem s a v hm]
  have hbt : t.binding b = none := by simp [t, hb]
  exact ⟨hv, exec_rb_of_heldByte ((readTarget_of_unbound hbt).trans (hr _ _)) (congrArg some hv)⟩

/-- A write in the work-RAM window stores its work-RAM byte, mirrored or not. -/
theorem wram_mem_writeTarget {s : State} {a : Addr} (hb : s.binding a = none) (h1 : 0xC000 ≤ a.toNat)
    (h2 : a.toNat ≤ 0xDFFF) : (.wram, a.toNat - 0xC000) ∈ targetCells (s.writeTarget a) := by
  rw [writeTarget_of_unbound hb]
  by_cases h : a.toNat ≤ 0xDDFF
  · rw [writeRows_mirrored h1 h]; exact List.mem_cons_self
  · rw [writeRows_wram (by omega) h2]; exact List.mem_cons_self

/-- Settles O24. -/
theorem workRamReadsBackWhatWasWritten : Obligations.WorkRamReadsBackWhatWasWritten := by
  intro s a hb h1 h2
  refine ⟨exec_rb_of_heldByte ((readTarget_of_unbound hb).trans (readRows_wram h1 h2)) rfl, fun v => ?_⟩
  exact ⟨_, exec_wb a v s,
    exec_rb_of_stored (wram_mem_writeTarget hb h1 h2) hb (fun _ _ => readRows_wram h1 h2) v⟩

/-- Settles O34: the mirrored write stores the echo byte that the address above names. -/
theorem echoAddressReadsTheMirroredWrite : Obligations.EchoAddressReadsTheMirroredWrite := by
  intro s a v hb hb' h1 h2
  have hadd : (a + 0x2000#16).toNat = a.toNat + 0x2000 := by bv_omega
  have hm : (.echo, a.toNat - 0xC000) ∈ targetCells (s.writeTarget a) := by
    rw [writeTarget_of_unbound hb, writeRows_mirrored h1 h2]
    exact List.mem_cons_of_mem _ List.mem_cons_self
  have hr (boot cart) : readRows boot cart (a + 0x2000#16).toNat = .cell .echo (a.toNat - 0xC000) := by
    have hi : a.toNat + 0x2000 - 0xE000 = a.toNat - 0xC000 := by omega
    rw [readRows_echo (by omega) (by omega), hadd, hi]
  exact ⟨_, exec_wb a v s, by omega, by omega, (exec_rb_of_stored hm hb' hr v).2⟩

/-- Settles O25: the row is the mirrored one up to 0xDDFF and work RAM alone above. -/
theorem workRamWritesAreMirroredIntoEcho : Obligations.WorkRamWritesAreMirroredIntoEcho := by
  intro s a v h1 h2
  cases hb : s.binding a with
  | some d => exact ⟨_, exec_wb_of_periph (writeTarget_of_binding hb), nofun, fun _ => ⟨rfl, rfl⟩⟩
  | none =>
    by_cases h : a.toNat ≤ 0xDDFF
    · have ht := (writeTarget_of_unbound hb).trans (writeRows_mirrored h1 h)
      refine ⟨_, exec_wb_of_mirrored ht, fun _ => ⟨rfl, fun i => ?_, fun i => ?_⟩, fun hn => absurd rfl hn⟩
      · simp [byteAt_setByte]
      · simp [byteAt_setByte, h]
    · have ht := (writeTarget_of_unbound hb).trans (writeRows_wram (by omega) h2)
      refine ⟨_, exec_wb_of_cell ht, fun _ => ⟨rfl, fun i => ?_, fun i => ?_⟩, fun hn => absurd rfl hn⟩
      · simp [byteAt_setByte]
      · simp [byteAt_setByte, h]

/-- Settles O26: the echo window has a row in the read table only. -/
theorem echoWindowIsReadOnly : Obligations.EchoWindowIsReadOnly := by
  intro s a hb h1 h2
  exact ⟨exec_rb_of_heldByte ((readTarget_of_unbound hb).trans (readRows_echo h1 h2)) rfl, fun v =>
    exec_wb_of_unmapped ((writeTarget_of_unbound hb).trans (writeRows_unmapped (.inr (.inl ⟨h1, h2⟩))))⟩

/-- Settles O28: 0xFF50, the address of `S.DMG`, is the only one of the window that names byte 4. -/
theorem reservedScratchIsReadAndWritten : Obligations.ReservedScratchIsReadAndWritten := by
  intro s a hb h1 h2 hne
  have h3 : a.toNat ≠ 0xFF50 := fun h => hne (BitVec.eq_of_toNat_eq h)
  refine ⟨exec_rb_of_heldByte ((readTarget_of_unbound hb).trans (readRows_scr h1 h2 h3)) rfl, fun v => ?_,
    by omega, by omega⟩
  exact ⟨_, exec_wb_of_cell ((writeTarget_of_unbound hb).trans (writeRows_scr h1 h2 h3)), rfl,
    fun i => by simp [byteAt_setByte]⟩

/-- Settles O29. -/
theorem zeroPageRamIsReadAndWritten : Obligations.ZeroPageRamIsReadAndWritten := by
  intro s a hb h1 h2
  refine ⟨exec_rb_of_heldByte ((readTarget_of_unbound hb).trans (readRows_zp h1 h2)) rfl, fun v => ?_,
    by omega⟩
  exact ⟨_, exec_wb_of_cell ((writeTarget_of_unbound hb).trans (writeRows_zp h1 h2)), rfl,
    fun i => by simp [byteAt_setByte]⟩

/-! ### The single-byte registers and the unmapped addresses (20_memory.md R61, R64) -/

theorem readRows_intFlag (boot : Bool) (cart : Option CartId) : readRows boot cart 0xFF0F = .intFlag := rfl
theorem readRows_dmg (boot : Bool) (cart : Option CartId) : readRows boot cart 0xFF50 = .dmg := rfl
theorem readRows_intEnable (boot : Bool) (cart : Option CartId) : readRows boot cart 0xFFFF = .intEnable := rfl
theorem writeRows_intFlag (cart : Option CartId) : writeRows cart 0xFF0F = .intFlag := rfl
theorem writeRows_dmg (cart : Option CartId) : writeRows cart 0xFF50 = .dmg := rfl
theorem writeRows_intEnable (cart : Option CartId) : writeRows cart 0xFFFF = .intEnable := rfl

/-- Settles O27, register by register. -/
theorem singleByteRegistersAreReadAndWritten : Obligations.SingleByteRegistersAreReadAndWritten := by
  refine fun s => ⟨fun hb => ⟨?_, fun v => ?_⟩, fun hb => ⟨?_, fun v => ?_⟩, fun hb => ⟨?_, fun v => ?_⟩⟩
  · exact exec_rb_of_heldByte ((readTarget_of_unbound hb).trans (readRows_intFlag _ _)) rfl
  · exact exec_wb_of_intFlag ((writeTarget_of_unbound hb).trans (writeRows_intFlag _))
  · exact exec_rb_of_heldByte ((readTarget_of_unbound hb).trans (readRows_dmg _ _)) rfl
  · exact exec_wb_of_dmg ((writeTarget_of_unbound hb).trans (writeRows_dmg _))
  · exact exec_rb_of_heldByte ((readTarget_of_unbound hb).trans (readRows_intEnable _ _)) rfl
  · exact exec_wb_of_intEnable ((writeTarget_of_unbound hb).trans (writeRows_intEnable _))

/-- Settles O30. -/
theorem unmappedAccessesAnswerZeroAndDropWrites : Obligations.UnmappedAccessesAnswerZeroAndDropWrites := by
  intro s a hb
  exact ⟨fun h => exec_rb_of_unmapped ((readTarget_of_unbound hb).trans (readRows_unmapped h)),
    fun h v => exec_wb_of_unmapped ((writeTarget_of_unbound hb).trans (writeRows_unmapped h))⟩

/-! ### The two transactions of a word access (20_memory.md R72) -/

theorem continueWord_of_torn {s : State} (h : s.torn = true) (hf : Half) :
    s.continueWord hf = s.holdHalf hf := by
  rw [State.continueWord, if_pos h]

theorem continueWord_of_not_torn {s : State} (h : s.torn = false) (hf : Half) :
    s.continueWord hf = (s.takeTurn s.issuer).finishHalf hf := by
  simp [State.continueWord, h]

/-- Holding a half after a byte read or write: the issuer and its queue are those of before. -/
theorem afterRead_holdHalf (s : State) (a : Addr) (hf : Half) :
    (s.afterRead a).holdHalf hf =
      (s.afterRead a).withPort s.issuer ⟨(s.port s.issuer).queue, some hf⟩ := by
  simp [State.holdHalf]

theorem writeByte_holdHalf (s : State) (a : Addr) (v : Byte) (hf : Half) :
    (s.writeByte a v).holdHalf hf =
      (s.writeByte a v).withPort s.issuer ⟨(s.port s.issuer).queue, some hf⟩ := by
  simp [State.holdHalf]

theorem withPort_takeTurn (s : State) (p q : Port) (ps : PortState) :
    (s.withPort p ps).takeTurn q = (s.takeTurn q).withPort p ps := by
  unfold State.takeTurn
  rw [withPort_sched]
  cases s.sched <;> cases p <;> rfl

theorem withPort_withPort (s : State) (p : Port) (ps ps' : PortState) :
    (s.withPort p ps).withPort p ps' = s.withPort p ps' := by
  cases p <;> rfl

theorem withPort_self (s : State) (p : Port) : s.withPort p (s.port p) = s := by
  cases p <;> rfl

/-- Where nothing comes between, a held half is done by the next step, as it would have been at once. -/
theorem step_holdHalf {s : State} (ht : s.torn = false) (hn : (s.port s.issuer).half = none) (hf : Half) :
    step (s.holdHalf hf) = .next (s.continueWord hf) := by
  have hg : (s.holdHalf hf).grant = some s.issuer := by
    rw [holdHalf_grant]
    simpa [State.torn] using ht
  have hp : (s.holdHalf hf).port s.issuer = ⟨(s.port s.issuer).queue, some hf⟩ := withPort_port_same ..
  have hq : (⟨(s.port s.issuer).queue, none⟩ : PortState) = (s.takeTurn s.issuer).port s.issuer := by
    rw [takeTurn_port, ← hn]
  rw [step_of_stepsTo (.half hg (congrArg PortState.half hp)), continueWord_of_not_torn ht, hp,
    State.holdHalf, withPort_takeTurn, withPort_withPort, hq, withPort_self]

/-- Settles O13. -/
theorem stepFinishesAHeldWordAccess : Obligations.StepFinishesAHeldWordAccess :=
  fun _ _ hg => ⟨fun _ _ hh => step_of_stepsTo (.half hg hh), fun _ _ hh => step_of_stepsTo (.half hg hh)⟩

/-- Settles O39: the first transaction leaves the ports and the merge, so that the access is torn still. -/
theorem tornWordAccessDoesItsFirstHalfAndWaits : Obligations.TornWordAccessDoesItsFirstHalfAndWaits := by
  refine fun s ht => ⟨fun a => ?_, fun a w => ?_⟩
  · rw [exec_rw, continueWord_of_torn ((afterRead_torn s a).trans ht), afterRead_holdHalf]
    rfl
  · rw [exec_ww, continueWord_of_torn ((writeByte_torn s a _).trans ht), writeByte_holdHalf]
    rfl

/-- Settles O60: one step of the held half after the first transaction. -/
theorem wordAccessInOneStepIsTwoTurns : Obligations.WordAccessInOneStepIsTwoTurns := by
  refine fun s ht hn => ⟨fun a => ?_, fun a w => ?_⟩
  · have hs := step_holdHalf ((afterRead_torn s a).trans ht) (by simpa using hn)
      (.readHigh (s.readValue a) (nextAddr a))
    rw [exec_rw, ← hs, afterRead_holdHalf]
    rfl
  · have hs := step_holdHalf ((writeByte_torn s a (loByte w)).trans ht) (by simpa using hn)
      (.writeHigh (hiByte w) (nextAddr a))
    rw [exec_ww, ← hs, writeByte_holdHalf]
    rfl

/-! ### The frame of RW (40_bus_access.md R115) -/

/-- Going on with a word read leaves the router state, whether its second half is done or held. -/
theorem sameRouter_continueWord_readHigh (s : State) (lo : Byte) (b : Addr) :
    s.SameRouter (s.continueWord (.readHigh lo b)) := by
  cases ht : s.torn with
  | true =>
    rw [continueWord_of_torn ht]
    exact sameRouter_withPort s _ _
  | false =>
    rw [continueWord_of_not_torn ht]
    exact ((sameRouter_takeTurn s _).trans (sameRouter_afterRead _ b)).trans (sameRouter_respond _ _ _)

/-- A word access holds its half at the issuer's port, if at all. -/
theorem continueWord_port_of_ne (s : State) (hf : Half) {p : Port} (h : p ≠ s.issuer) :
    (s.continueWord hf).port p = s.port p := by
  unfold State.continueWord
  split
  · rw [State.holdHalf, withPort_port, if_neg h]
  · simp

@[simp] theorem continueWord_queue (s : State) (hf : Half) (p : Port) :
    ((s.continueWord hf).port p).queue = (s.port p).queue := by
  by_cases h : p = s.issuer
  · subst h
    unfold State.continueWord
    split <;> simp [State.holdHalf]
  · rw [continueWord_port_of_ne s hf h]

/-- One turn of the merge is used up if the second half is done. -/
theorem continueWord_turns_eq (s : State) (hf : Half) :
    (s.continueWord hf).turns = if s.torn ∨ s.sched ≠ [] then s.turns else s.turns + 1 := by
  rw [continueWord_turns, takeTurn_turns]
  by_cases ht : s.torn <;> by_cases hs : s.sched = [] <;> simp [ht, hs]

/-- Settles O40. -/
theorem readWordFrame : Obligations.ReadWordFrame := by
  intro s a
  refine ⟨_, exec_rw a s, (sameRouter_afterRead s a).trans (sameRouter_continueWord_readHigh _ _ _), ?_, ?_,
    by simp, by simp, fun p hp => ?_⟩
  · simp [continueWord_sched]
  · simp [continueWord_turns_eq]
  · rw [continueWord_port_of_ne _ _ (by simpa using hp), afterRead_port]

end Sys2Proof.Machine
end

section
/-! PROOFS. Decoding and encoding undo each other, and the decoder accepts exactly what the opcode table
makes legal (30_encoding.md R91 to R104). -/

namespace Sys2Proof

/-! ### Words and their fields -/

/-- A word and payload with the fields given are the command packed from them. -/
theorem Command.pack_eq {w : CmdWord} {p : Payload} {op sub : BitVec 4} {a b : BitVec 16}
    (hop : w.op.toNat = op.toNat) (hsub : w.sub = sub) (ha : w.a = a) (hb : w.b = b) :
    (⟨CmdWord.pack op sub a b, p⟩ : Command) = ⟨w, p⟩ := by
  rw [← BitVec.eq_of_toNat_eq hop, ← hsub, ← ha, ← hb, CmdWord.pack_fields]

/-- WB's field `b` is its data byte, once the high half is zero. -/
theorem zeroExtend_lowHalf {b : BitVec 16} (h : b.extractLsb' 8 8 = 0) :
    (b.extractLsb' 0 8).zeroExtend 16 = b := by
  have hb := congrArg BitVec.toNat h
  apply BitVec.eq_of_toNat_eq
  simp [BitVec.extractLsb'_toNat, Nat.shiftRight_eq_div_pow] at hb ⊢
  omega

/-- SETBOOT's field `sub` is its flag, once the three bits above are zero. -/
theorem zeroExtend_lowBit : ∀ {sub : BitVec 4}, sub.extractLsb' 1 3 = 0 →
    BitVec.zeroExtend 4 (BitVec.ofBool (sub.getLsbD 0)) = sub := by
  decide

/-! ### The round trip -/

theorem decode_encode (i : Instr) : decode (encode i) = .ok i := by
  cases i with
  | setboot enabled => cases enabled <;> simp [encode, decode]
  | _ => simp [encode, decode]

/-- In each arm of the decoder, the must-be-zero check and the operands give back every field. -/
theorem encode_of_decode {c : Command} {i : Instr} (h : decode c = .ok i) : encode i = c := by
  obtain ⟨w, p⟩ := c
  simp only [decode] at h
  split at h <;>
    simp only [decodeChecked_eq_ok, Bool.and_eq_true, beq_iff_eq, Payload.ifAbsent_eq_some,
      Option.map_eq_some_iff, Payload.device?_eq_some, Payload.bytes?_eq_some, Payload.cart?_eq_some,
      reduceCtorEq] at h
  case h_1 hop | h_3 hop => obtain ⟨⟨hsub, hb⟩, rfl, rfl⟩ := h; exact Command.pack_eq hop hsub rfl hb
  case h_2 hop =>
    obtain ⟨⟨hsub, hb⟩, rfl, rfl⟩ := h
    exact Command.pack_eq hop hsub rfl (zeroExtend_lowHalf hb).symm
  case h_4 hop => obtain ⟨hsub, rfl, rfl⟩ := h; exact Command.pack_eq hop hsub rfl rfl
  case h_5 hop => obtain ⟨hsub, d, rfl, rfl⟩ := h; exact Command.pack_eq hop hsub rfl rfl
  case h_6 hop | h_7 hop =>
    obtain ⟨⟨⟨hsub, ha⟩, hb⟩, x, rfl, rfl⟩ := h
    exact Command.pack_eq hop hsub ha hb
  case h_8 hop =>
    obtain ⟨⟨⟨hsub, ha⟩, hb⟩, rfl, rfl⟩ := h
    exact Command.pack_eq hop (zeroExtend_lowBit hsub).symm ha hb
  case h_9 hop => obtain ⟨⟨ha, hb⟩, rfl, rfl⟩ := h; exact Command.pack_eq hop rfl ha hb
  case h_10 hop | h_11 hop =>
    obtain ⟨⟨⟨hsub, ha⟩, hb⟩, rfl, rfl⟩ := h
    exact Command.pack_eq hop hsub ha hb

/-- Settles O5. -/
theorem decodeOfEncodeIsTheCommand : Obligations.DecodeOfEncodeIsTheCommand := decode_encode

/-- Settles O6. -/
theorem encodeOfDecodeIsTheWord : Obligations.EncodeOfDecodeIsTheWord := fun _ _ => encode_of_decode

/-! ### The opcode table, read by fields -/

theorem CmdWord.eq_iff_fields {w v : CmdWord} :
    w = v ↔ w.op = v.op ∧ w.sub = v.sub ∧ w.a = v.a ∧ w.b = v.b := by
  constructor
  · rintro rfl
    exact ⟨rfl, rfl, rfl, rfl⟩
  · rintro ⟨hop, hsub, ha, hb⟩
    rw [← w.pack_fields, hop, hsub, ha, hb, v.pack_fields]

/-- A row matches a word field by field. -/
theorem OpcodeRow.matchesWord_iff {r : OpcodeRow} {w : CmdWord} :
    r.matchesWord w = true ↔
      w.op &&& r.mask.op = r.pattern.op ∧ w.sub &&& r.mask.sub = r.pattern.sub ∧
      w.a &&& r.mask.a = r.pattern.a ∧ w.b &&& r.mask.b = r.pattern.b := by
  simp [OpcodeRow.matchesWord, CmdWord.eq_iff_fields (v := r.pattern), CmdWord.op, CmdWord.sub, CmdWord.a,
    CmdWord.b, BitVec.extractLsb'_and]

/-- The row's own fields are written out here, for `simp` to compute them from a row of numerals. -/
theorem OpcodeRow.matchesWord_pack {r : OpcodeRow} {op sub : BitVec 4} {a b : BitVec 16} :
    r.matchesWord (CmdWord.pack op sub a b) = true ↔
      op &&& r.mask.extractLsb' 36 4 = r.pattern.extractLsb' 36 4 ∧
      sub &&& r.mask.extractLsb' 32 4 = r.pattern.extractLsb' 32 4 ∧
      a &&& r.mask.extractLsb' 16 16 = r.pattern.extractLsb' 16 16 ∧
      b &&& r.mask.extractLsb' 0 16 = r.pattern.extractLsb' 0 16 := by
  rw [OpcodeRow.matchesWord_iff, CmdWord.op_pack, CmdWord.sub_pack, CmdWord.a_pack, CmdWord.b_pack]
  rfl

theorem nibble_and_ones (x : BitVec 4) : x &&& 15#4 = x := BitVec.and_allOnes
theorem byte_and_ones (x : BitVec 8) : x &&& 255#8 = x := BitVec.and_allOnes
theorem word_and_ones (x : BitVec 16) : x &&& 65535#16 = x := BitVec.and_allOnes

/-- WB's mask on field `b`. -/
theorem and_highHalf_eq_zero {b : BitVec 16} : b &&& 0xFF00#16 = 0#16 ↔ b.extractLsb' 8 8 = 0#8 := by
  refine ⟨fun h => ?_, fun h => ?_⟩
  · simpa [BitVec.extractLsb'_and, byte_and_ones] using congrArg (BitVec.extractLsb' 8 8) h
  · rw [← zeroExtend_lowHalf h]
    apply BitVec.eq_of_getLsbD_eq
    intro i hi
    interval_cases i <;> simp

/-- SETBOOT's mask on field `sub`. -/
theorem and_highBits_eq_zero : ∀ {sub : BitVec 4}, sub &&& 0xE#4 = 0#4 ↔ sub.extractLsb' 1 3 = 0#3 := by
  decide

@[simp] theorem PayloadKind.fits_none {p : Payload} : PayloadKind.none.fits p = true ↔ p = .absent := by
  cases p <;> simp [PayloadKind.fits]

@[simp] theorem PayloadKind.fits_deviceId {p : Payload} :
    PayloadKind.deviceId.fits p = true ↔ ∃ d, p = .device d := by
  cases p <;> simp [PayloadKind.fits]

@[simp] theorem PayloadKind.fits_byteSequence {p : Payload} :
    PayloadKind.byteSequence.fits p = true ↔ ∃ data, p = .bytes data := by
  cases p <;> simp [PayloadKind.fits]

@[simp] theorem PayloadKind.fits_cartId {p : Payload} :
    PayloadKind.cartId.fits p = true ↔ ∃ c, p = .cart c := by
  cases p <;> simp [PayloadKind.fits]

/-- The legal commands, row by row of the opcode table. -/
theorem wellFormed_pack {op sub : BitVec 4} {a b : BitVec 16} {p : Payload} :
    (⟨CmdWord.pack op sub a b, p⟩ : Command).wellFormed = true ↔
      (op = 0x0 ∧ sub = 0 ∧ b = 0 ∧ p = .absent) ∨
      (op = 0x1 ∧ sub = 0 ∧ b.extractLsb' 8 8 = 0 ∧ p = .absent) ∨
      (op = 0x2 ∧ sub = 0 ∧ b = 0 ∧ p = .absent) ∨
      (op = 0x3 ∧ sub = 0 ∧ p = .absent) ∨
      (op = 0x4 ∧ sub = 0 ∧ ∃ d, p = .device d) ∨
      (op = 0x5 ∧ sub = 0 ∧ a = 0 ∧ b = 0 ∧ ∃ data, p = .bytes data) ∨
      (op = 0x6 ∧ sub = 0 ∧ a = 0 ∧ b = 0 ∧ ∃ c, p = .cart c) ∨
      (op = 0x7 ∧ sub.extractLsb' 1 3 = 0 ∧ a = 0 ∧ b = 0 ∧ p = .absent) ∨
      (op = 0x8 ∧ a = 0 ∧ b = 0 ∧ p = .absent) ∨
      (op = 0x9 ∧ sub = 0 ∧ a = 0 ∧ b = 0 ∧ p = .absent) ∨
      (op = 0xA ∧ sub = 0 ∧ a = 0 ∧ b = 0 ∧ p = .absent) := by
  simp [Command.wellFormed, opcodeTable, OpcodeRow.matchesWord_pack, nibble_and_ones, word_and_ones,
    and_highHalf_eq_zero, and_highBits_eq_zero, and_assoc, -Subtype.exists]

theorem wellFormed_encode (i : Instr) : (encode i).wellFormed = true := by
  cases i with
  | setboot enabled => cases enabled <;> rfl
  | _ => simp [encode, wellFormed_pack]

theorem exists_encode_of_wellFormed {c : Command} (h : c.wellFormed = true) : ∃ i, encode i = c := by
  obtain ⟨w, p⟩ := c
  rw [← w.pack_fields] at h ⊢
  generalize w.op = op, w.sub = sub, w.a = a, w.b = b at h ⊢
  obtain ⟨rfl, rfl, rfl, rfl⟩ | ⟨rfl, rfl, hb, rfl⟩ | ⟨rfl, rfl, rfl, rfl⟩ | ⟨rfl, rfl, rfl⟩ |
    ⟨rfl, rfl, d, rfl⟩ | ⟨rfl, rfl, rfl, rfl, data, rfl⟩ | ⟨rfl, rfl, rfl, rfl, c, rfl⟩ |
    ⟨rfl, hsub, rfl, rfl, rfl⟩ | ⟨rfl, rfl, rfl, rfl⟩ | ⟨rfl, rfl, rfl, rfl, rfl⟩ |
    ⟨rfl, rfl, rfl, rfl, rfl⟩ := wellFormed_pack.1 h
  · exact ⟨.rb a, rfl⟩
  · exact ⟨.wb a (b.extractLsb' 0 8), by rw [encode, zeroExtend_lowHalf hb]⟩
  · exact ⟨.rw a, rfl⟩
  · exact ⟨.ww a b, rfl⟩
  · exact ⟨.connect d a b, rfl⟩
  · exact ⟨.loadovl data, rfl⟩
  · exact ⟨.loadcart c, rfl⟩
  · exact ⟨.setboot (sub.getLsbD 0), by rw [encode, zeroExtend_lowBit hsub]⟩
  · exact ⟨.irq sub, rfl⟩
  · exact ⟨.reset, rfl⟩
  · exact ⟨.dump, rfl⟩

/-- Both sides say that the command is the encoding of an instruction. -/
theorem decode_ok_iff_wellFormed (c : Command) : (∃ i, decode c = .ok i) ↔ c.wellFormed = true := by
  constructor
  · rintro ⟨i, h⟩
    rw [← encode_of_decode h]
    exact wellFormed_encode i
  · intro h
    obtain ⟨i, rfl⟩ := exists_encode_of_wellFormed h
    exact ⟨i, decode_encode i⟩

/-- Settles O7. -/
theorem decodeAcceptsExactlyTheOpcodeTable : Obligations.DecodeAcceptsExactlyTheOpcodeTable :=
  decode_ok_iff_wellFormed

/-- Every row's mask covers the opcode (R95). -/
theorem op_of_matchesWord {r : OpcodeRow} {w : CmdWord} (hr : r ∈ opcodeTable) (h : r.matchesWord w = true) :
    w.op = r.pattern.op := by
  have hmask : ∀ q ∈ opcodeTable, q.mask.op = 15#4 := by decide
  rw [← (OpcodeRow.matchesWord_iff.1 h).1, hmask r hr, nibble_and_ones]

/-- Settles O8: no two rows have the same opcode. -/
theorem opcodeRowsDoNotOverlap : Obligations.OpcodeRowsDoNotOverlap := by
  have hne : opcodeTable.Pairwise (fun r q => r.pattern.op ≠ q.pattern.op) := by decide
  refine hne.imp_of_mem (fun hr hq hop w ⟨hrw, hqw⟩ => hop ?_)
  rw [← op_of_matchesWord hr hrw, op_of_matchesWord hq hqw]

/-- Settles O9: the words of R104 are fixed, and decoding computes. -/
theorem exampleWordsOfR104Decode : Obligations.ExampleWordsOfR104Decode := by
  unfold Obligations.ExampleWordsOfR104Decode
  decide

end Sys2Proof
end

section
/-! PROOFS. What a step does at the granted port, and that every merge of the ports' transactions is a run
of the machine (30_encoding.md R90, R103; 20_memory.md R72). -/

namespace Sys2Proof.Machine

open Sys2Proof

/-! ### A step at a port with a command -/

theorem step_of_command {s : State} {p : Port} {c : Command} {rest : List Command} {i : Instr}
    (hg : s.grant = some p) (hh : (s.port p).half = none) (hq : (s.port p).queue = c :: rest)
    (hd : decode c = .ok i) : step s = exec i ((s.takeTurn p).withPort p ⟨rest, none⟩) := by
  simp [step, hg, hh, hq, hd]

theorem step_of_illegal {s : State} {p : Port} {c : Command} {rest : List Command} {why : Reject}
    (hg : s.grant = some p) (hh : (s.port p).half = none) (hq : (s.port p).queue = c :: rest)
    (hd : decode c = .error why) : step s = .refused (.illegalCommand why) := by
  simp [step, hg, hh, hq, hd]

/-! ### A transaction is a step, or the first part of one -/

/-- What a step of port `p` answers, beside the state `t` that the port's next transaction alone comes to
with `sched` left of the schedule: the step is that transaction, or it goes on with the half that `t`
holds, as the next step from `t` does. -/
def ComesThrough (sched : List Port) (p : Port) (answer : Host.Outcome State Fault Refusal) (t : State) : Prop :=
  t.sched = sched ∧ (answer = .next t ∨ (answer = step t ∧ (t.port p).half ≠ none))

theorem continueWord_comesThrough {s : State} (hn : (s.port s.issuer).half = none) (hf : Half) :
    ComesThrough s.sched s.issuer (.next (s.continueWord hf)) (s.holdHalf hf) := by
  refine ⟨holdHalf_sched s hf, ?_⟩
  cases ht : s.torn with
  | true => exact .inl (congrArg _ (continueWord_of_torn ht hf))
  | false => exact .inr ⟨(step_holdHalf ht hn hf).symm, by simp [State.holdHalf]⟩

theorem exec_comesThrough {s t : State} {i : Instr} (hn : (s.port s.issuer).half = none)
    (h : s.firstTransaction i = .next t) : ComesThrough s.sched s.issuer (exec i s) t := by
  cases i with
  | rw a =>
    cases h
    simpa using continueWord_comesThrough (s := s.afterRead a) (by simpa using hn) _
  | ww a w =>
    cases h
    simpa using continueWord_comesThrough (s := s.writeByte a (loByte w)) (by simpa using hn) _
  | _ =>
    simp only [State.firstTransaction] at h
    refine ⟨?_, .inl h⟩
    cases executes_of_exec h <;> simp

theorem step_comesThrough {s t : State} {p : Port} (hp : s.nextTurn = p) (h : s.transact p = some t) :
    ComesThrough s.sched.tail p (step s) t := by
  have hg (hw : s.waiting p = true) : s.grant = some p := hp ▸ grant_of_named (hp ▸ hw)
  simp only [State.transact, takeTurn_port] at h
  split at h
  next hf hh =>
    cases h
    exact ⟨by simp, .inl (step_of_stepsTo (.half (hg (by simp [State.waiting, hh])) hh))⟩
  next => cases h
  next c rest hh hq =>
    split at h
    next i hd =>
      split at h
      next ht =>
        cases h
        rw [step_of_command (hg (by simp [State.waiting, hq])) hh hq hd]
        simpa using exec_comesThrough (by simp) ht
      all_goals cases h
    next => cases h

/-! ### Every merge is a run -/

/-- By induction on the merge: a step does the next transaction, or that and the next one of its port. -/
theorem run_of_merge {s t : State} {order later : List Port} (hs : s.sched = order ++ later)
    (h : s.merge order = some t) (ht : ∀ p, (t.port p).half = none) :
    ∃ k, Sys2Proof.core.run k s = .next t := by
  induction order generalizing s with
  | nil => cases h; exact ⟨0, rfl⟩
  | cons p rest ih =>
    rw [State.merge] at h
    split at h
    next u hu =>
      obtain ⟨hsched, hstep⟩ := step_comesThrough (nextTurn_cons hs) hu
      obtain ⟨k, hk⟩ := ih (by rw [hsched, hs]; rfl) h
      obtain hstep | ⟨hstep, hheld⟩ := hstep
      · exact ⟨k + 1, (run_succ_of_step hstep k).trans hk⟩
      · cases k with
        | zero => cases hk; exact absurd (ht p) hheld
        | succ k => exact ⟨k + 1, (run_succ_of_step_eq hstep k).trans hk⟩
    next => cases h

/-- Settles O59: the schedule laid down names the merge's ports. -/
theorem everyMergeOfTransactionsIsARun : Obligations.EveryMergeOfTransactionsIsARun :=
  fun _ _ _ _ => run_of_merge rfl

/-! ### Which port moves -/

/-- Settles O14: a named port that waits is ready, at a grant and between the halves alike. -/
theorem anyWaitingPortMayMoveNext : Obligations.AnyWaitingPortMayMoveNext := by
  intro s p hw
  have hne : s.waitingPorts ≠ [] := List.ne_nil_of_mem ((mem_waitingPorts s p).2 hw)
  obtain ⟨q, hq⟩ := Option.isSome_iff_exists.1 (choose_isSome (s := s) hne)
  refine ⟨⟨q, hq, (mem_waitingPorts s q).1 (mem_of_choose hq)⟩, fun hp => hp ▸ grant_of_named (hp ▸ hw),
    grant_of_named hw, ?_, torn_of_issuer_named rfl⟩
  by_cases hp : p = s.issuer
  · rw [bne_eq_false_iff_eq.2 hp]
    exact torn_of_issuer_named hp
  · rw [bne_iff_ne.2 hp]
    exact torn_of_other_named hp hw

/-! ### Steps -/

/-- Settles O12. -/
theorem stepExecutesTheGrantedCommand : Obligations.StepExecutesTheGrantedCommand :=
  fun _ _ _ _ _ => step_of_command

/-- Settles O15: no port can be granted. -/
theorem idleStepChangesNothing : Obligations.IdleStepChangesNothing := by
  intro s hs
  refine step_of_stepsTo (.idle (Option.eq_none_iff_forall_ne_some.2 fun p hg => ?_))
  have hw := (mem_waitingPorts s p).1 (mem_of_choose hg)
  rw [hs p] at hw
  cases hw

/-- Settles O17: such a command does not decode. -/
theorem illegalCommandIsRefused : Obligations.IllegalCommandIsRefused := by
  intro s p c rest hg hh hq hc
  cases hd : decode c with
  | ok i => exact absurd ((decode_ok_iff_wellFormed c).1 ⟨i, hd⟩) (by simp [hc])
  | error why => exact ⟨why, step_of_illegal hg hh hq hd⟩

theorem decode_tableCommand {nbits w : Nat} {i : Instr} (h : decodeTableWord nbits w = some i) :
    decode (tableCommand nbits w) = .ok i := by
  unfold decodeTableWord at h
  split at h <;> cases h
  assumption

theorem placeFirst_port (s : State) (p : Port) (c : Command) :
    (s.placeFirst p c).port p = ⟨c :: (s.port p).queue, none⟩ := by
  cases p <;> rfl

theorem placeFirst_grant (s : State) (p : Port) (c : Command) : (s.placeFirst p c).grant = some p := by
  refine grant_of_named (s := s.placeFirst p c) ?_
  change (s.placeFirst p c).waiting p = true
  simp [State.waiting, placeFirst_port]

/-- A command placed first is executed next, if it spells one. -/
theorem step_placeFirst (s : State) (p : Port) {c : Command} {i : Instr} (hd : decode c = .ok i) :
    step (s.placeFirst p c) = exec i { s.withPort p ⟨(s.port p).queue, none⟩ with issuer := p } := by
  rw [step_of_command (placeFirst_grant s p c) (by rw [placeFirst_port]) (by rw [placeFirst_port]) hd]
  cases p <;> rfl

/-- Settles O16: a word that decodes is placed first at its home port. -/
theorem placedWordIsExecutedNext : Obligations.PlacedWordIsExecutedNext := by
  intro s nbits w i h
  have hd := decode_tableCommand h
  have hp : commandPort (tableCommand nbits w) = homePort i := by simp [commandPort, hd]
  rw [State.withFetchWord, hp]
  exact step_placeFirst s (homePort i) hd

end Sys2Proof.Machine
end

section
/-! PROOFS. The response every command returns (30_encoding.md R93). -/

namespace Sys2Proof.Machine

open Sys2Proof

@[simp] theorem takeTurn_readValue (s : State) (p : Port) (a : Addr) :
    (s.takeTurn p).readValue a = s.readValue a := by
  simp [State.readValue, State.readTarget, State.answer]

/-- The `rdata` of a command's response, where nothing comes between a word read's halves. -/
def State.responseData (s : State) : Instr → Word
  | .rb a => zext16 (s.readValue a)
  | .rw a => joinBytes ((s.afterRead a).readValue (nextAddr a)) (s.readValue a)
  | _ => 0x0000

/-- The `status` of a command's response. -/
def responseStatus : Instr → Byte
  | .loadovl data => if 256 < data.length then statusOverlayTooLarge else statusOk
  | _ => statusOk

theorem exec_responds (i : Instr) {s : State} (ht : s.torn = false) : ∃ t, exec i s = .next t ∧
    t.responses = s.responses ++ [⟨s.issuer, s.responseData i, responseStatus i⟩] := by
  cases i with
  | rw | ww =>
    refine ⟨_, rfl, ?_⟩
    rw [continueWord_of_not_torn (by simpa using ht)]
    simp [State.finishHalf, State.responseData, responseStatus]
  | loadovl data =>
    by_cases hl : 256 < data.length <;> simp [exec_loadovl, State.responseData, responseStatus, hl]
  | irq kind =>
    by_cases hk : kind = vblankKind <;> simp [exec_irq, State.responseData, responseStatus, hk]
  | _ => simp [State.responseData, responseStatus]

/-- Only the two reads answer data. -/
theorem responseData_of_not_read {i : Instr} (s : State) (hrb : ∀ a, i ≠ .rb a) (hrw : ∀ a, i ≠ .rw a) :
    s.responseData i = 0x0000 := by
  cases i with
  | rb a => exact absurd rfl (hrb a)
  | rw a => exact absurd rfl (hrw a)
  | _ => rfl

theorem responseStatus_of_not_tooLarge {i : Instr} (h : ¬ ∃ data, i = .loadovl data ∧ 256 < data.length) :
    responseStatus i = 0x00 := by
  cases i with
  | loadovl data => exact if_neg (fun hl => h ⟨data, rfl, hl⟩)
  | _ => rfl

/-- Settles O55. -/
theorem everyCommandReturnsOneResponse : Obligations.EveryCommandReturnsOneResponse := by
  intro i s ht
  obtain ⟨t, hexec, hresp⟩ := exec_responds i ht
  refine ⟨t, _, _, hexec, hresp, ?_, ?_, responseData_of_not_read s, ?_,
    responseStatus_of_not_tooLarge⟩
  · rintro a rfl; rfl
  · rintro a rfl; rfl
  · rintro ⟨data, rfl, hl⟩; exact if_pos hl

end Sys2Proof.Machine
end

section
/-! PROOFS. The assembler: operands and pseudo-commands (30_encoding.md R100, R101). -/

namespace Sys2Proof.Machine

open Sys2Proof

theorem numberOf_of_operand {bits : Nat} {t : Token} {v : BitVec bits} (h : operand bits t = some v) :
    numberOf t = some v.toNat := by
  unfold operand at h
  split at h
  next n hn =>
    split at h <;> cases h
    next hlt => rw [hn, BitVec.toNat_ofNat, Nat.mod_eq_of_lt hlt]
  next => cases h

/-- Settles O11: an operand that assembled is the number written, which its width bounds. -/
theorem operandsAreNeverTruncated : Obligations.OperandsAreNeverTruncated := by
  refine fun bits t => ⟨fun v => numberOf_of_operand, fun n hn hle => ?_⟩
  refine Option.eq_none_iff_forall_ne_some.2 fun v hv => ?_
  obtain rfl := Option.some.inj (hn.symm.trans (numberOf_of_operand hv))
  exact absurd v.isLt (Nat.not_lt_of_le hle)

/-- Settles O10: `bind` assembles its one address once, `connect` the same address twice. -/
theorem pseudoCommandsExpandAsR101 : Obligations.PseudoCommandsExpandAsR101 := by
  intro sym d a
  refine ⟨rfl, rfl, ?_, rfl⟩
  have hbind : assembleTokens sym (.word "bind".toList) [d, .comma, a] =
      (symbolOf d sym.devices).bind (fun d => (operand 16 a).map (fun a => .connect d a a)) := rfl
  have hconnect : assembleTokens sym (.word "connect".toList) [d, .comma, a, .comma, a] =
      (symbolOf d sym.devices).bind
        (fun d => (operand 16 a).bind (fun x => (operand 16 a).map (.connect d x))) := rfl
  rw [hbind, hconnect]
  cases operand 16 a <;> rfl

end Sys2Proof.Machine
end

section
/-! PROOFS. The bus access commands RB, WB, RW, WW (40_bus_access.md): what each leaves unchanged, and a
word access as two byte accesses, low half first. -/

namespace Sys2Proof.Machine

open Sys2Proof

/-! ### What leaves the command interface as it is -/

theorem State.SameInterface.trans {s t u : State} (h : s.SameInterface t) (h' : t.SameInterface u) :
    s.SameInterface u where
  bus := h'.bus.trans h.bus
  irq := h'.irq.trans h.irq
  host := h'.host.trans h.host
  sched := h'.sched.trans h.sched
  turns := h'.turns.trans h.turns
  issuer := h'.issuer.trans h.issuer

theorem sameInterface_respond (s : State) (d : Word) (st : Byte) : s.SameInterface (s.respond d st) := by
  constructor <;> simp

theorem sameInterface_afterRead (s : State) (a : Addr) : s.SameInterface (s.afterRead a) := by
  constructor <;> simp

theorem sameInterface_writeByte (s : State) (a : Addr) (v : Byte) : s.SameInterface (s.writeByte a v) := by
  constructor <;> simp

/-! ### Byte reads -/

/-- All that a byte read can do beside answering (20_memory.md R71). -/
theorem afterRead_cases (s : State) (a : Addr) :
    s.afterRead a = s ∨ s.afterRead a = s.emit (.unmappedRead a) ∨
    (∃ d, s.afterRead a = s.useAnswer.callOut (.periphRead d a)) ∨
    (∃ c, s.afterRead a = s.useAnswer.callOut (.cartRead c a)) := by
  unfold State.afterRead
  split
  next d _ => exact .inr (.inr (.inl ⟨d, rfl⟩))
  next c _ => exact .inr (.inr (.inr ⟨c, rfl⟩))
  next => exact .inr (.inl rfl)
  all_goals exact .inl rfl

/-- Settles O31, by what the byte read did beside answering. -/
theorem byteReadChangesNoRouterState : Obligations.ByteReadChangesNoRouterState := by
  intro s a
  refine ⟨_, exec_rb a s, (sameRouter_afterRead s a).trans (sameRouter_respond _ _ _),
    (sameInterface_afterRead s a).trans (sameInterface_respond _ _ _),
    ⟨zext16 (s.readValue a), by simp [statusOk]⟩, ?_⟩
  obtain h | h | ⟨d, h⟩ | ⟨c, h⟩ := afterRead_cases s a <;> rw [h]
  · exact .inl ⟨rfl, rfl, rfl, rfl⟩
  · exact .inr (.inl ⟨rfl, rfl, rfl, rfl⟩)
  · exact .inr (.inr (.inl ⟨by simp, d, by simp⟩))
  · exact .inr (.inr (.inr ⟨by simp, c, by simp⟩))

theorem afterRead_of_cell {s : State} {a : Addr} {st : Store} {i : Nat} (h : s.readTarget a = .cell st i) :
    s.afterRead a = s := by
  rw [State.afterRead, h]

theorem readValue_of_cell {s : State} {a : Addr} {st : Store} {i : Nat} (h : s.readTarget a = .cell st i) :
    s.readValue a = s.byteAt st i := by
  rw [State.readValue, h]

/-- What a read resolves to depends on the router state alone. -/
theorem State.SameRouter.readTarget {s t : State} (h : s.SameRouter t) (a : Addr) :
    t.readTarget a = s.readTarget a := by
  simp only [State.readTarget, State.binding, h.reg, h.bootMode, h.cart]

/-- So does the byte read, unless a collaborator answers it. -/
theorem State.SameRouter.readValue {s t : State} (h : s.SameRouter t) {a : Addr}
    (hd : ∀ d, s.readTarget a ≠ .periph d) (hc : ∀ c, s.readTarget a ≠ .cart c) :
    t.readValue a = s.readValue a := by
  rw [State.readValue, State.readValue, h.readTarget]
  cases ht : s.readTarget a with
  | periph d => exact absurd ht (hd d)
  | cart c => exact absurd ht (hc c)
  | cell st i => exact h.bytes st i
  | mirrored i => exact h.bytes .wram i
  | intFlag => exact h.intFlag
  | intEnable => exact h.intEnable
  | dmg => exact h.dmg
  | unmapped => rfl

/-! ### Byte writes -/

theorem writeByte_intFlag_of_target_ne {s : State} {a : Addr} {v : Byte} (h : s.writeTarget a ≠ .intFlag) :
    (s.writeByte a v).intFlag = s.intFlag := by
  rw [writeByte_intFlag, if_neg h]

theorem writeByte_intEnable_of_target_ne {s : State} {a : Addr} {v : Byte}
    (h : s.writeTarget a ≠ .intEnable) : (s.writeByte a v).intEnable = s.intEnable := by
  rw [writeByte_intEnable, if_neg h]

theorem writeByte_dmg_of_target_ne {s : State} {a : Addr} {v : Byte} (h : s.writeTarget a ≠ .dmg) :
    (s.writeByte a v).dmg = s.dmg := by
  rw [writeByte_dmg, if_neg h]

/-- Only a peripheral or the cartridge is called. -/
theorem writeByte_calls_of_no_collaborator {s : State} {a : Addr} {v : Byte}
    (hd : ∀ d, s.writeTarget a ≠ .periph d) (hc : ∀ c, s.writeTarget a ≠ .cart c) :
    (s.writeByte a v).calls = s.calls := by
  unfold State.writeByte
  split
  next d h => exact absurd h (hd d)
  next c h => exact absurd h (hc c)
  all_goals simp

/-- Settles O32. -/
theorem byteWriteFrame : Obligations.ByteWriteFrame := by
  intro s a v
  refine ⟨_, exec_wb a v s, fun st i h => ?_, fun st i h => ?_, writeByte_intFlag_of_target_ne,
    writeByte_intEnable_of_target_ne, writeByte_dmg_of_target_ne, by simp, by simp, by simp,
    (sameInterface_writeByte s a v).trans (sameInterface_respond _ _ _), by simp, by simp, by simp [statusOk],
    writeByte_log s a v, writeByte_calls_of_no_collaborator⟩
  · rw [respond_byteAt, byteAt_writeByte_of_mem s a v h]
  · rw [respond_byteAt, byteAt_writeByte_of_not_mem s a v h]

/-! ### A word access in one step (40_bus_access.md R115 to R117) -/

/-- Settles O35: the second read is done after the turn that the first one leaves. -/
theorem readWordReadsLowThenHigh : Obligations.ReadWordReadsLowThenHigh := by
  intro s a ht
  rw [exec_rw, continueWord_of_not_torn ((afterRead_torn s a).trans ht), State.finishHalf, takeTurn_readValue,
    afterRead_issuer]
  rfl

/-- Settles O37: the second write is done after the turn that the first one leaves. -/
theorem writeWordWritesLowThenHigh : Obligations.WriteWordWritesLowThenHigh := by
  intro s a w ht
  rw [exec_ww, continueWord_of_not_torn ((writeByte_torn s a _).trans ht), writeByte_issuer]
  rfl

/-- Settles O36: the read of the low byte leaves the byte that the high half's address holds. -/
theorem readWordJoinsTheTwoByteReads : Obligations.ReadWordJoinsTheTwoByteReads := by
  intro s a ht hx
  obtain ⟨hd, hc⟩ := hx (a + 1#16) (by simp)
  obtain ⟨t, hrb, hlo⟩ := exec_responds (.rb a) ht
  obtain ⟨u, hrb', hhi⟩ := exec_responds (.rb (a + 1#16)) ht
  obtain ⟨v, hrw, hword⟩ := exec_responds (.rw a) ht
  have hv : s.responseData (.rw a) = joinBytes (s.readValue (a + 1#16)) (s.readValue a) :=
    congrArg (joinBytes · (s.readValue a)) ((sameRouter_afterRead s a).readValue hd hc)
  rw [hv] at hword
  exact ⟨s.readValue a, s.readValue (a + 1#16), t, u, v, hrb, hlo, hrb', hhi, hrw, hword⟩

/-! ### The frame of WW (40_bus_access.md R117) -/

@[simp] theorem takeTurn_writeTarget (s : State) (p : Port) (a : Addr) :
    (s.takeTurn p).writeTarget a = s.writeTarget a := by
  simp [State.writeTarget]

theorem byteAt_busElement (st : Store) (i : Nat) : BusElement (State.byteAt · st i) (fun _ => True) where
  withPort s p ps := withPort_byteAt s p ps st i
  takeTurn s p := takeTurn_byteAt s p st i
  respond s d status := respond_byteAt s d status st i
  afterRead s a := afterRead_byteAt s a st i
  writeByte _ _ _ h := absurd trivial h

/-- An element that byte writes to the targets in `spares` keep is kept by a word write, torn or not, if both
its halves have such a target, the second one's taken after the first is written (20_memory.md R72). -/
theorem BusElement.writeWord_keeps {α : Type} {f : State → α} {writes : Addr → Prop}
    (e : BusElement f writes) {spares : Target → Prop}
    (hf : ∀ (u : State) (x : Addr) (v : Byte), spares (u.writeTarget x) → f (u.writeByte x v) = f u)
    {s : State} {a b : Addr} {lo hi : Byte} (ha : spares (s.writeTarget a))
    (hb : spares ((s.writeByte a lo).writeTarget b)) :
    f ((s.writeByte a lo).continueWord (.writeHigh hi b)) = f s := by
  rw [← hf s a lo ha]
  cases ht : (s.writeByte a lo).torn with
  | true =>
    rw [continueWord_of_torn ht]
    exact e.withPort _ _ _
  | false =>
    rw [continueWord_of_not_torn ht]
    have hsecond := hf ((s.writeByte a lo).takeTurn (s.writeByte a lo).issuer) b hi (by simpa using hb)
    exact (e.respond _ _ _).trans (hsecond.trans (e.takeTurn _ _))

@[simp] theorem continueWord_writeHigh_answers (s : State) (hi : Byte) (b : Addr) :
    (s.continueWord (.writeHigh hi b)).answers = s.answers := by
  unfold State.continueWord
  split <;> simp [State.finishHalf]

@[simp] theorem continueWord_writeHigh_draws (s : State) (hi : Byte) (b : Addr) :
    (s.continueWord (.writeHigh hi b)).draws = s.draws := by
  unfold State.continueWord
  split <;> simp [State.finishHalf]

/-- Settles O41. -/
theorem writeWordFrame : Obligations.WriteWordFrame := by
  intro s a w
  refine ⟨_, exec_ww a w s, fun st i => ?_, ?_, ?_, ?_, by simp, by simp, by simp, by simp, by simp, ?_, ?_,
    by simp, by simp, fun p hp => ?_⟩
  · exact (byteAt_busElement st i).writeWord_keeps (spares := ((st, i) ∉ targetCells ·))
      (fun u x v => byteAt_writeByte_of_not_mem u x v)
  · exact intFlag_busElement.writeWord_keeps (spares := (· ≠ .intFlag))
      (fun _ _ _ => writeByte_intFlag_of_target_ne)
  · exact intEnable_busElement.writeWord_keeps (spares := (· ≠ .intEnable))
      (fun _ _ _ => writeByte_intEnable_of_target_ne)
  · exact dmg_busElement.writeWord_keeps (spares := (· ≠ .dmg)) (fun _ _ _ => writeByte_dmg_of_target_ne)
  · simp [continueWord_sched]
  · simp [continueWord_turns_eq]
  · rw [continueWord_port_of_ne _ _ (by simpa using hp), writeByte_port]

/-! ### Reading back a word written (40_bus_access.md R118) -/

/-- With no binding, bus address `n` is byte `i` of store `st`: a read resolves to it, and it is the one
byte of the store that a write stores to. -/
structure IsCell (n : Nat) (st : Store) (i : Nat) : Prop where
  read (boot : Bool) (cart : Option CartId) : readRows boot cart n = .cell st i
  write (cart : Option CartId) (j : Nat) : (st, j) ∈ targetCells (writeRows cart n) ↔ j = i

theorem wram_isCell {n : Nat} (h1 : 0xC000 ≤ n) (h2 : n ≤ 0xDFFF) : IsCell n .wram (n - 0xC000) where
  read _ _ := readRows_wram h1 h2
  write cart j := by
    by_cases h : n ≤ 0xDDFF
    · simp [writeRows_mirrored h1 h, targetCells]
    · simp [writeRows_wram (Nat.lt_of_not_le h) h2, targetCells]

theorem scr_isCell {n : Nat} (h1 : 0xFF4C ≤ n) (h2 : n ≤ 0xFF7F) (h3 : n ≠ 0xFF50) :
    IsCell n .scr (n - 0xFF4C) where
  read _ _ := readRows_scr h1 h2 h3
  write _ _ := by simp [writeRows_scr h1 h2 h3, targetCells]

theorem zp_isCell {n : Nat} (h1 : 0xFF80 ≤ n) (h2 : n ≤ 0xFFFE) : IsCell n .zp (n - 0xFF80) where
  read _ _ := readRows_zp h1 h2
  write _ _ := by simp [writeRows_zp h1 h2, targetCells]

/-- The two addresses of a word inside one writable window are two bytes of one store. -/
theorem exists_isCell_of_writableWindow {n : Nat}
    (h : (0xC000 ≤ n ∧ n ≤ 0xDFFE) ∨ (0xFF4C ≤ n ∧ n ≤ 0xFF4E) ∨ (0xFF51 ≤ n ∧ n ≤ 0xFF7E) ∨
      (0xFF80 ≤ n ∧ n ≤ 0xFFFD)) :
    ∃ st i j, i ≠ j ∧ IsCell n st i ∧ IsCell (n + 1) st j := by
  obtain ⟨h1, h2⟩ | ⟨h1, h2⟩ | ⟨h1, h2⟩ | ⟨h1, h2⟩ := h
  · exact ⟨_, _, _, by omega, wram_isCell h1 (by omega), wram_isCell (by omega) (by omega)⟩
  · exact ⟨_, _, _, by omega, scr_isCell h1 (by omega) (by omega), scr_isCell (by omega) (by omega) (by omega)⟩
  · exact ⟨_, _, _, by omega, scr_isCell (by omega) (by omega) (by omega),
      scr_isCell (by omega) (by omega) (by omega)⟩
  · exact ⟨_, _, _, by omega, zp_isCell h1 (by omega), zp_isCell (by omega) (by omega)⟩

section

variable {s : State} {a : Addr} {st : Store} {i : Nat}

theorem IsCell.readTarget (h : IsCell a.toNat st i) (hb : s.binding a = none) : s.readTarget a = .cell st i :=
  (readTarget_of_unbound hb).trans (h.read _ _)

/-- Of that store, a write at the address stores its own byte and no other. -/
theorem IsCell.byteAt_writeByte (h : IsCell a.toNat st i) (hb : s.binding a = none) (v : Byte) (j : Nat) :
    (s.writeByte a v).byteAt st j = if j = i then v else s.byteAt st j := by
  have hm : (st, j) ∈ targetCells (s.writeTarget a) ↔ j = i := by
    rw [writeTarget_of_unbound hb, h.write]
  split
  next hj => exact byteAt_writeByte_of_mem s a v (hm.2 hj)
  next hj => exact byteAt_writeByte_of_not_mem s a v (mt hm.1 hj)

end

theorem joinBytes_hiByte_loByte (w : Word) : joinBytes (hiByte w) (loByte w) = w := by
  unfold joinBytes hiByte loByte
  rw [BitVec.extractLsb'_append_extractLsb'_eq_extractLsb' (by rfl)]
  exact BitVec.extractLsb'_eq_self

theorem takeTurn_respond (s : State) (d : Word) (status : Byte) :
    (s.takeTurn s.issuer).respond d status =
      { s.takeTurn s.issuer with responses := s.responses ++ [⟨s.issuer, d, status⟩] } := by
  unfold State.takeTurn
  split <;> rfl

/-- A word read of two store bytes joins them and does nothing else but take its turn. -/
theorem exec_rw_of_cells {s : State} {a : Addr} {w : Word} {st : Store} {i j : Nat} (ht : s.torn = false)
    (hlo : s.readTarget a = .cell st i) (hhi : s.readTarget (a + 1#16) = .cell st j)
    (hlow : s.byteAt st i = loByte w) (hhigh : s.byteAt st j = hiByte w) :
    exec (.rw a) s = .next { s.takeTurn s.issuer with
      responses := s.responses ++ [⟨s.issuer, w, 0x00⟩] } := by
  have hturn : (s.takeTurn s.issuer).readTarget (a + 1#16) = .cell st j :=
    ((sameRouter_takeTurn s s.issuer).readTarget _).trans hhi
  have hword : (hiByte w ++ loByte w : BitVec 16) = w := joinBytes_hiByte_loByte w
  rw [readWordReadsLowThenHigh s a ht, afterRead_of_cell hlo, afterRead_of_cell hturn, readValue_of_cell hlo,
    readValue_of_cell hhi, hlow, hhigh, hword, takeTurn_respond]

/-- Settles O38: the two halves are written to two bytes of one store, which the word read joins. -/
theorem readWordAfterWriteWordReturnsTheWord : Obligations.ReadWordAfterWriteWordReturnsTheWord := by
  intro s a w ht hb hb' hw
  obtain ⟨st, i, j, hij, hlo, hhi⟩ := exists_isCell_of_writableWindow hw
  have hnext : (a + 1#16).toNat = a.toNat + 1 := by bv_omega
  rw [← hnext] at hhi
  refine ⟨_, writeWordWritesLowThenHigh s a w ht, fun ht' => ?_⟩
  refine exec_rw_of_cells ht' (hlo.readTarget (by simpa using hb)) (hhi.readTarget (by simpa using hb')) ?_ ?_
  · rw [respond_byteAt, hhi.byteAt_writeByte (by simpa using hb'), if_neg hij, takeTurn_byteAt,
      hlo.byteAt_writeByte hb, if_pos rfl, loByte]
  · rw [respond_byteAt, hhi.byteAt_writeByte (by simpa using hb'), if_pos rfl, hiByte]

end Sys2Proof.Machine
end


section
/-! PROOFS. The control commands CONNECT, LOADOVL, LOADCART, SETBOOT, RESET, DUMP (41_control.md). -/

namespace Sys2Proof.Machine

open Sys2Proof

/-! ### CONNECT (R130, R131) -/

/-- Settles O43: the empty range and 0xFFFF need no case of their own, the range being one of numbers. -/
theorem connectBindsTheInclusiveRange : Obligations.ConnectBindsTheInclusiveRange :=
  fun s d start stop => ⟨_, exec_connect d start stop s, rfl, fun x =>
    Registry.lookup_bind s.reg d start.toNat stop.toNat x.toNat⟩

/-- That an address is bound, to whichever device, is kept by every operation on the registry. -/
theorem bound_storeInvariant (a : Addr) : StoreInvariant (fun s => s.binding a ≠ none) where
  of_same h _ hr := by rwa [State.binding, hr]
  writeByte b v h := by rwa [writeByte_binding]
  connect d start stop h := by
    rw [withReg_binding, Registry.lookup_bind]
    split
    · exact Option.some_ne_none d
    · exact h
  loadOverlay _ h := by rwa [setBytes_binding]

/-- Settles O44: being bound is an invariant of the registry. -/
theorem noCommandRemovesABinding : Obligations.NoCommandRemovesABinding :=
  fun _ _ a h hb => (bound_storeInvariant a).step hb h

/-! ### DUMP (R143, R144) -/

/-- A canonical registry is the list of what its addresses are bound to, in ascending order. -/
theorem Registry.filterMap_lookup_range {r : Registry} (h : Registry.wf r) :
    (List.range 65536).filterMap (fun x => (Registry.lookup r x).map (x, ·)) = r := by
  obtain ⟨hsorted, hbound⟩ := h
  refine List.Pairwise.eq_of_mem_iff (r := Prod.fst ⁻¹'o (· < ·)) ?_ hsorted fun e => ?_
  · refine List.pairwise_filterMap.2 (List.pairwise_lt_range.imp fun hlt e he f hf => ?_)
    obtain ⟨_, -, rfl⟩ := Option.map_eq_some_iff.1 he
    obtain ⟨_, -, rfl⟩ := Option.map_eq_some_iff.1 hf
    exact hlt
  · simp only [List.mem_filterMap, List.mem_range, Option.map_eq_some_iff]
    constructor
    · rintro ⟨x, -, d, hd, rfl⟩
      exact Registry.mem_of_lookup hd
    · exact fun he => ⟨e.1, hbound e he, e.2, Registry.lookup_of_mem ⟨hsorted, hbound⟩ he, rfl⟩

/-- The events of a dump, address by address. -/
theorem dumpEvents_eq_filterMap {r : Registry} (h : Registry.wf r) :
    dumpEvents r = (List.range 65536).filterMap (fun x =>
      (Registry.lookup r x).map (fun d => .dumpEntry (BitVec.ofNat 16 x) (Config.devName d))) := by
  conv_lhs => rw [← Registry.filterMap_lookup_range h]
  simp only [dumpEvents, List.map_filterMap, Option.map_map, Function.comp_def]

/-- Settles O45: below 65536 an address and its number are the same. -/
theorem dumpListsEveryBoundAddressInOrder : Obligations.DumpListsEveryBoundAddressInOrder := by
  intro s hr
  have hevents : dumpEvents s.reg = (List.range 65536).filterMap (fun x =>
      (s.binding (BitVec.ofNat 16 x)).map
        (fun d => .dumpEntry (BitVec.ofNat 16 x) (Config.devName d))) := by
    rw [dumpEvents_eq_filterMap hr]
    refine List.filterMap_congr fun x hx => ?_
    rw [State.binding, BitVec.toNat_ofNat, Nat.mod_eq_of_lt (List.mem_range.1 hx)]
  rw [exec_dump, hevents]
  rfl

/-- Settles O46: CONNECT lists the six addresses, and DUMP goes through that list. -/
theorem connectedRangeDelegatesAndIsDumpedOnce : Obligations.ConnectedRangeDelegatesAndIsDumpedOnce := by
  intro s p hs
  obtain ⟨t, ht, -, hbind⟩ := connectBindsTheInclusiveRange s p 0xFF40#16 0xFF45#16
  refine ⟨t, ht, fun a h1 h2 => ?_, _, exec_dump t, ?_⟩
  · have hb : t.binding a = some p := (hbind a).trans (if_pos ⟨h1, h2⟩)
    exact ⟨readTarget_of_binding hb, writeTarget_of_binding hb⟩
  · cases ht
    simp only [respond_log, emitAll_log, respond_reg, withReg_reg, withReg_log, hs]
    rfl

/-! ### LOADOVL (R133, R134) -/

theorem exec_loadovl_of_le {data : List Byte} (h : data.length ≤ 256) (s : State) :
    exec (.loadovl data) s = .next ((s.setBytes .ovl 0 data).respond 0x0000 statusOk) :=
  exec_of_executes (.overlayLoaded h)

/-- Storing bytes in the overlay changes no other field. -/
theorem setBytes_ovl_eq (s : State) (i : Nat) (data : List Byte) :
    s.setBytes .ovl i data = { s with ovl := (s.setBytes .ovl i data).ovl } := by
  induction data generalizing s i with
  | nil => rfl
  | cons v rest ih => exact ih (s.setByte .ovl i v) (i + 1)

/-- Bytes stored from index 0 on replace those that the image has, and the tail stays. -/
theorem byteAt_setBytes_zero (s : State) (st : Store) (data : List Byte) (i : Nat) :
    (s.setBytes st 0 data).byteAt st i = (data[i]?).getD (s.byteAt st i) := by
  rw [byteAt_setBytes]
  by_cases hi : i < data.length <;> simp [hi]

/-- Settles O48. -/
theorem loadOverlayCopiesFromOffsetZero : Obligations.LoadOverlayCopiesFromOffsetZero := by
  intro s data hl
  refine ⟨_, exec_loadovl_of_le hl s, ?_, fun i => by rw [respond_byteAt, byteAt_setBytes_zero]⟩
  rw [setBytes_ovl_eq]
  rfl

/-- Settles O47: an image of 256 bytes has one for every byte of the overlay. -/
theorem loadOverlayIsAllOrNothing : Obligations.LoadOverlayIsAllOrNothing := by
  refine fun s data => ⟨fun hl => ?_, fun hl => exec_of_executes (.overlayTooLarge hl)⟩
  refine ⟨_, exec_loadovl_of_le hl.le s, by simp [statusOk], fun i hi => ?_⟩
  have hget : data[i]? = some data[i] := List.getElem?_eq_getElem (hl ▸ hi)
  rw [respond_byteAt, byteAt_setBytes_zero, hget, Option.getD_some]

/-! ### LOADCART, SETBOOT, RESET (R136 to R140) -/

/-- Settles O49. -/
theorem loadCartridgeBindsAndReports : Obligations.LoadCartridgeBindsAndReports :=
  fun s c => exec_loadcart c s

/-- Settles O50. -/
theorem setBootSetsBootModeOnly : Obligations.SetBootSetsBootModeOnly :=
  fun s e => exec_setboot e s

/-- Settles O52. -/
theorem resetTouchesBootModeAndIntFlagOnly : Obligations.ResetTouchesBootModeAndIntFlagOnly :=
  fun s => exec_reset s

/-- Settles O51: 0x0050 is the overlay's row while boot mode is on, and the cartridge's afterwards. -/
theorem endingBootModeUncoversTheCartridge : Obligations.EndingBootModeUncoversTheCartridge := by
  intro s c hb hc hboot
  have hovl : s.readTarget 0x0050#16 = .cell .ovl 0x50 := by
    rw [readTarget_of_unbound hb, hboot]
    exact readRows_overlay (by decide)
  refine ⟨_, _, _, exec_rb_of_heldByte hovl rfl, rfl, exec_setboot false _, exec_rb_of_cart (c := c) ?_,
    by simp, by simp [State.answer, zext16, statusOk]⟩
  rw [readTarget_cartWindow (by simpa using hb) (.inl (by decide)) (by simp)]
  exact congrArg cartTarget hc

end Sys2Proof.Machine
end

section
/-! PROOFS. The interrupt request command IRQ (42_interrupt_request.md). -/

namespace Sys2Proof.Machine

open Sys2Proof

/-- Settles O53: vertical blank is kind 0 and has a case of its own, past the registry (R150); every other
kind goes the diagnostic's way (R152). -/
theorem interruptRequestWritesTheFullByte : Obligations.InterruptRequestWritesTheFullByte := by
  refine fun s kind => ⟨fun hvblank => ?_, fun hother => exec_of_executes (.unknownIrq hother)⟩
  subst hvblank
  exact exec_of_executes .vblank

end Sys2Proof.Machine
end


section
/-! PROOFS. The block never stops on a legal command and takes no exception (60_exceptions.md R160, R165,
R166), and does not interpret IE (R170). -/

namespace Sys2Proof.Machine

open Sys2Proof

/-! ### When a step stops (R160, R165) -/

/-- Every command completes in every state. -/
theorem exec_completes (i : Instr) (s : State) : ∃ t, exec i s = .next t := by
  cases i with
  | loadovl data =>
    by_cases hl : 256 < data.length
    · exact ⟨_, exec_of_executes (.overlayTooLarge hl)⟩
    · exact ⟨_, exec_loadovl_of_le (Nat.le_of_not_lt hl) s⟩
  | irq kind =>
    by_cases hk : kind = vblankKind
    · exact ⟨_, hk ▸ exec_of_executes .vblank⟩
    · exact ⟨_, exec_of_executes (.unknownIrq hk)⟩
  | _ => exact ⟨_, rfl⟩

/-- Settles O19: with nothing granted, a half held, or a legal command, the step goes on. -/
theorem onlyIllegalCommandsStopAStep : Obligations.OnlyIllegalCommandsStopAStep := by
  intro s
  cases hg : s.grant with
  | none => exact .inl ⟨s, step_of_stepsTo (.idle hg)⟩
  | some p =>
    cases hh : (s.port p).half with
    | some hf => exact .inl ⟨_, step_of_stepsTo (.half hg hh)⟩
    | none =>
      obtain ⟨c, rest, hq⟩ := List.exists_cons_of_ne_nil (queue_ne_nil_of_grant hg hh)
      cases hc : c.wellFormed with
      | true =>
        obtain ⟨i, hd⟩ := (decode_ok_iff_wellFormed c).2 hc
        obtain ⟨t, ht⟩ := exec_completes i ((s.takeTurn p).withPort p ⟨rest, none⟩)
        exact .inl ⟨t, (step_of_command hg hh hq hd).trans ht⟩
      | false =>
        obtain ⟨why, hstep⟩ := illegalCommandIsRefused s p c rest hg hh hq hc
        exact .inr ⟨p, c, rest, why, rfl, hh, hq, hc, hstep⟩

/-! ### The commands that wait (30_encoding.md R90) -/

/-- Executing a command adds and takes none at any port. -/
theorem Executes.queue {s t : State} {i : Instr} (h : Executes s i t) (p : Port) :
    (t.port p).queue = (s.port p).queue := by
  cases h <;> simp

/-- A step adds no command to a queue, and takes commands from its front only. -/
theorem queue_suffix_of_step {s t : State} (h : step s = .next t) (p : Port) :
    (t.port p).queue <:+ (s.port p).queue := by
  cases stepsTo_of_step h with
  | idle => exact List.suffix_rfl
  | half =>
    rw [finishHalf_port, withPort_port, takeTurn_port]
    split
    · subst p; exact List.suffix_rfl
    · exact List.suffix_rfl
  | command _ _ hq _ he =>
    rw [he.queue, withPort_port, takeTurn_port]
    split
    · subst p; rw [hq]; exact List.suffix_cons ..
    · exact List.suffix_rfl

theorem State.CommandsLegal.step {s t : State} (hs : s.CommandsLegal) (h : step s = .next t) :
    t.CommandsLegal :=
  fun p c hc => hs p c ((queue_suffix_of_step h p).subset hc)

/-- Settles O18: the command that would stop the step waits at the granted port, so that it is legal. -/
theorem legalCommandsNeverStopTheBlock : Obligations.LegalCommandsNeverStopTheBlock := by
  intro s hs
  obtain ⟨t, ht⟩ | ⟨p, c, rest, -, -, -, hq, hc, -⟩ := onlyIllegalCommandsStopAStep s
  · exact ⟨t, ht, hs.step ht⟩
  · have hlegal : c.wellFormed = true := hs p c (hq ▸ List.mem_cons_self)
    cases hc.symm.trans hlegal

/-! ### Another byte in IE: every operation with no half at 0xFFFF does the same (R170) -/

theorem readRows_intEnable_addr {boot : Bool} {cart : Option CartId} {n : Nat}
    (h : readRows boot cart n = .intEnable) : n = 0xFFFF := by
  have hcart : cartTarget cart ≠ .intEnable := by cases cart <;> exact Target.noConfusion
  unfold readRows at h
  split_ifs at h
  · exact absurd h hcart
  · exact absurd h hcart
  · assumption

/-- A byte read resolves to `S.IE` only at 0xFFFF (20_memory.md R61). -/
theorem addr_of_readTarget_intEnable {s : State} {a : Addr} (h : s.readTarget a = .intEnable) :
    a = 0xFFFF#16 := by
  cases hb : s.binding a with
  | some d => rw [readTarget_of_binding hb] at h; cases h
  | none => exact BitVec.eq_of_toNat_eq (readRows_intEnable_addr (readTarget_of_unbound hb ▸ h))

/-- The bus address of a word access's second half (20_memory.md R70). -/
def halfAddr : Half → Addr
  | .readHigh _ a => a
  | .writeHigh _ a => a

section

variable (s : State) (v : Byte)

theorem withIntEnable_readValue {a : Addr} (h : a ≠ 0xFFFF#16) :
    (s.withIntEnable v).readValue a = s.readValue a := by
  have ht : (s.withIntEnable v).readTarget a = s.readTarget a := rfl
  unfold State.readValue
  rw [ht]
  cases hr : s.readTarget a with
  | intEnable => exact absurd (addr_of_readTarget_intEnable hr) h
  | _ => rfl

theorem withIntEnable_useAnswer : (s.withIntEnable v).useAnswer = s.useAnswer.withIntEnable v := by
  unfold State.useAnswer
  rw [withIntEnable_answers]
  cases s.answers <;> rfl

theorem withIntEnable_afterRead (a : Addr) :
    (s.withIntEnable v).afterRead a = (s.afterRead a).withIntEnable v := by
  have ht : (s.withIntEnable v).readTarget a = s.readTarget a := rfl
  unfold State.afterRead
  rw [ht, withIntEnable_useAnswer]
  cases s.readTarget a <;> rfl

theorem withIntEnable_setByte (st : Store) (i : Nat) (x : Byte) :
    (s.withIntEnable v).setByte st i x = (s.setByte st i x).withIntEnable v := by
  cases st <;> rfl

theorem withIntEnable_setBytes (st : Store) (i : Nat) (data : List Byte) :
    (s.withIntEnable v).setBytes st i data = (s.setBytes st i data).withIntEnable v := by
  induction data generalizing s i with
  | nil => rfl
  | cons x rest ih => rw [State.setBytes, withIntEnable_setByte, ih]; rfl

theorem withIntEnable_setCells (x : Byte) (cells : List (Store × Nat)) :
    (s.withIntEnable v).setCells x cells = (s.setCells x cells).withIntEnable v := by
  induction cells generalizing s with
  | nil => rfl
  | cons c rest ih => rw [State.setCells, withIntEnable_setByte, ih]; rfl

theorem withIntEnable_writeByte {a : Addr} (x : Byte) (h : a ≠ 0xFFFF#16) :
    (s.withIntEnable v).writeByte a x = (s.writeByte a x).withIntEnable v := by
  have ht : (s.withIntEnable v).writeTarget a = s.writeTarget a := rfl
  unfold State.writeByte
  rw [ht]
  cases hw : s.writeTarget a with
  | cell | mirrored => exact withIntEnable_setCells ..
  | intEnable => exact absurd hw (writeTarget_ne_register rfl h)
  | _ => rfl

theorem withIntEnable_withPort (p : Port) (ps : PortState) :
    (s.withIntEnable v).withPort p ps = (s.withPort p ps).withIntEnable v := by
  cases p <;> rfl

theorem withIntEnable_takeTurn (p : Port) :
    (s.withIntEnable v).takeTurn p = (s.takeTurn p).withIntEnable v := by
  unfold State.takeTurn
  rw [withIntEnable_sched]
  cases s.sched <;> rfl

theorem withIntEnable_torn : (s.withIntEnable v).torn = s.torn :=
  torn_of_same (withIntEnable_port s v) rfl rfl rfl

theorem withIntEnable_holdHalf (hf : Half) :
    (s.withIntEnable v).holdHalf hf = (s.holdHalf hf).withIntEnable v := by
  rw [State.holdHalf, withIntEnable_port, withIntEnable_withPort]
  rfl

theorem withIntEnable_finishHalf {hf : Half} (h : halfAddr hf ≠ 0xFFFF#16) :
    (s.withIntEnable v).finishHalf hf = (s.finishHalf hf).withIntEnable v := by
  cases hf with
  | readHigh lo a =>
    rw [State.finishHalf, withIntEnable_afterRead, withIntEnable_readValue (a := a) s v h]
    rfl
  | writeHigh hi a =>
    rw [State.finishHalf, withIntEnable_writeByte (a := a) s v hi h]
    rfl

theorem withIntEnable_continueWord {hf : Half} (h : halfAddr hf ≠ 0xFFFF#16) :
    (s.withIntEnable v).continueWord hf = (s.continueWord hf).withIntEnable v := by
  unfold State.continueWord
  rw [withIntEnable_torn, withIntEnable_issuer, withIntEnable_holdHalf, withIntEnable_takeTurn,
    withIntEnable_finishHalf _ v h]
  split <;> rfl

end

/-- Settles O58: IE keeps its byte by its written-by column (10_state.md R20), and no other element shows
it. -/
theorem interruptEnableIsNotInterpreted : Obligations.InterruptEnableIsNotInterpreted := by
  intro i s v hrb hwb hrw hww
  obtain ⟨t, ht⟩ := exec_completes i s
  refine ⟨t, ht, ?_, ?_⟩
  · obtain ⟨-, -, hie, -⟩ := elementsAreWrittenOnlyByTheirCommands i s t ht
    by_contra hne
    obtain ⟨x, rfl⟩ | ⟨a, w, rfl, ha⟩ := hie hne
    · exact hwb _ x rfl rfl
    · obtain ⟨hlo, hhi⟩ := hww a w rfl
      exact ha.elim hlo hhi
  · change exec i (s.withIntEnable v) = .next (t.withIntEnable v)
    cases executes_of_exec ht with
    | rb a =>
      rw [exec_rb, withIntEnable_afterRead, withIntEnable_readValue s v (hrb a rfl)]
      rfl
    | wb a x =>
      rw [exec_wb, withIntEnable_writeByte s v x (hwb a x rfl)]
      rfl
    | rw a =>
      obtain ⟨hlo, hhi⟩ := hrw a rfl
      rw [exec_rw, withIntEnable_afterRead, withIntEnable_readValue s v hlo]
      exact congrArg Host.Outcome.next (withIntEnable_continueWord _ v hhi)
    | ww a w =>
      obtain ⟨hlo, hhi⟩ := hww a w rfl
      rw [exec_ww, withIntEnable_writeByte s v _ hlo]
      exact congrArg Host.Outcome.next (withIntEnable_continueWord _ v hhi)
    | overlayTooLarge hl => exact exec_of_executes (.overlayTooLarge hl)
    | overlayLoaded hl =>
      rw [exec_loadovl_of_le hl, withIntEnable_setBytes]
      rfl
    | unknownIrq hk => exact exec_of_executes (.unknownIrq hk)
    | connect | loadcart | setboot | vblank | reset | dump => rfl

end Sys2Proof.Machine
end

section
/-! PROOFS. A word read torn by another port's write, step by step (70_reset_and_hazards.md R187). -/

namespace Sys2Proof.Machine

open Sys2Proof

/-- Work RAM holds a word that the bus port is to read, and the host port is to write its high byte; the
merge puts the write between the halves of the read. -/
def wordReadAndWrite : State := { State.reset with
  wram := [(0, 0x11), (1, 0x22)]
  bus := ⟨[encode (.rw 0xC000)], none⟩
  host := ⟨[encode (.wb 0xC001 0x99)], none⟩
  sched := [.bus, .host, .bus] }

/-- After the read's first half: the bus port holds the low byte and waits for the high one. -/
def lowByteRead : State := { wordReadAndWrite with
  bus := ⟨[], some (.readHigh 0x11 0xC001)⟩
  sched := [.host, .bus]
  issuer := .bus }

/-- After the write: work RAM and its mirror have the new high byte, and the bus port holds the low byte
still. -/
def highByteWritten : State := { lowByteRead with
  wram := [(0, 0x11), (1, 0x99)]
  echo := [(1, 0x99)]
  host := ⟨[], none⟩
  responses := [⟨.host, 0x0000, 0x00⟩]
  sched := [.bus]
  issuer := .host }

theorem step_wordReadAndWrite : step wordReadAndWrite = .next lowByteRead :=
  (step_of_command (p := .bus) rfl rfl rfl (decode_encode _)).trans
    ((tornWordAccessDoesItsFirstHalfAndWaits _ rfl).1 0xC000)

theorem step_lowByteRead : step lowByteRead = .next highByteWritten :=
  (step_of_command (p := .host) rfl rfl rfl (decode_encode _)).trans
    (exec_wb_of_mirrored (i := 1) (by decide))

/-- Settles O42: the half held since before the write reads the high byte after it. -/
theorem wordReadCanTear : Obligations.WordReadCanTear :=
  have hdone := (stepFinishesAHeldWordAccess highByteWritten .bus rfl).1 0x11 0xC001 rfl
  ⟨lowByteRead, highByteWritten, _, step_wordReadAndWrite, step_lowByteRead, hdone, rfl⟩

end Sys2Proof.Machine
end
